-- ==== Sys2Proof/Word.lean ====
section
/-! DEFINITION. The word types: bytes of BUF, 16-bit lengths, 32-bit registers (rules R7, R9). -/

namespace Sys2Proof

/-- One byte of BUF (rule R9: "A byte is 8 bits"). -/
abbrev Byte := BitVec 8

/-- A 16-bit number: the defined part of TLV_LEN (rule R30), the result of `BE16` (rule R11). -/
abbrev Half := BitVec 16

/-- A host-visible register's value (rule R7: "every host-visible register is 32 bits wide"). -/
abbrev Word := BitVec 32

/-- Narrow an exact natural number (rule R10) into a 32-bit register. DESIGN CHOICE, safe: assumption 10. -/
abbrev toWord (n : Nat) : Word := BitVec.ofNat 32 n

end Sys2Proof
end

