-- ==== Sys2Proof/Syntax.lean ====
section
/-! DEFINITION. The instructions: the seven host commands of rule R83, one constructor per row of
spec/opcode_table.json. No command carries an operand (rules R81, R82). -/

namespace Sys2Proof

/-- The commands the host can write to CMD (rule R83). -/
inductive Instr where
  /-- NOP, rule R180. -/
  | nop
  /-- TLV_START, rule R104. -/
  | tlvStart
  /-- TLV_NEXT, rule R105. -/
  | tlvNext
  /-- REC_START, rule R137. -/
  | recStart
  /-- REC_NEXT, rule R138. -/
  | recNext
  /-- LOCATE, rule R170. -/
  | locate
  /-- SOFT_RESET, rule R181. -/
  | softReset
  deriving DecidableEq, Repr

end Sys2Proof
end

