-- ==== Sys2Proof/Machine/Access.lean ====
section
/-! DEFINITION. The host's accesses (rules R65, R66, R88): what the outside world can do to the block,
one at a time and in issue order (rules R14, R70). -/

namespace Sys2Proof.Machine

/-- The width of a register access. Only 32-bit accesses have a meaning (rule R65). -/
inductive Width where
  | w8
  | w16
  | w32
  deriving DecidableEq, Repr

/-- One host access: the tuple (space, offset, width, value) of rule R88. A BUF access is always one
byte (rule R66). Offsets are plain numbers: any offset may be tried (rules R65, R68). -/
inductive Access where
  /-- `rd`: a read of the register space. -/
  | regRead (offset : Nat) (width : Width)
  /-- `wr`: a write of the register space. -/
  | regWrite (offset : Nat) (width : Width) (value : Word)
  /-- `rb`: a byte read of BUF. -/
  | bufRead (offset : Nat)
  /-- `wb`: a byte write of BUF. -/
  | bufWrite (offset : Nat) (value : Byte)
  deriving DecidableEq, Repr

/-- What reaches the block from outside: a host access, or the hardware reset of rule R220 (between
two accesses; DESIGN CHOICE, unsafe inside a command: assumption 12). -/
inductive Input where
  | access (a : Access)
  | hardReset
  deriving DecidableEq, Repr

/-- What a host read returned: 32 bits of a register or 8 bits of BUF (rule R66). -/
inductive ReadValue where
  | word (v : Word)
  | byte (b : Byte)
  deriving DecidableEq, Repr

/-- Rule R65: "A host register access must be a 32-bit access at an offset that is a multiple of 4
inside `0x00..0xFC`"; every other register access is refused (rule R187). -/
def regAccessLegal (offset : Nat) (width : Width) : Bool :=
  width == .w32 && offset % 4 == 0 && decide (offset ≤ 0xFC)

/-- An access that the block performs: BUF accesses need no alignment and no range (rules R65, R68). -/
def Access.legal : Access → Bool
  | .regRead offset width => regAccessLegal offset width
  | .regWrite offset width _ => regAccessLegal offset width
  | .bufRead _ => true
  | .bufWrite _ _ => true

end Sys2Proof.Machine
end

