-- ==== Sys2Proof/WellFormed.lean ====
section
/-! DEFINITION. Well-formedness. A command has no operand field, no immediate and no mode bit (rules
R81, R82), so no command term can be ill-formed; a host access can (rule R65). -/

namespace Sys2Proof

/-- Every command is well-formed: rule R81 gives it no field that could be out of range. -/
def Instr.wf : Instr → Bool
  | .nop => true
  | .tlvStart => true
  | .tlvNext => true
  | .recStart => true
  | .recNext => true
  | .locate => true
  | .softReset => true

/-- A well-formed host access: one the block performs (rules R65, R187). -/
def Machine.Access.wf (a : Machine.Access) : Bool := a.legal

end Sys2Proof
end

