-- ==== Sys2Proof/Decode.lean ====
section
/-! DEFINITION. The command decoder and encoder (rules R80, R81, R83, R84). A command word is one
32-bit register write, so no byte order applies to it (rules R64, R81). -/

namespace Sys2Proof

/-- Why a word written to CMD is no command (rule R84). -/
inductive DecodeError where
  /-- RSV = CMD[31:8] is not 0 (rule R81: "reserved, must be 0"). -/
  | reservedBitsSet
  /-- RSV is 0 and OP is in `0x07..0xFF`. -/
  | opcodeUnassigned
  deriving DecidableEq, Repr

/-- One row of the opcode map (rule R83). -/
structure OpcodeRow where
  mask : Word
  pattern : Word
  instr : Instr
  deriving DecidableEq, Repr

/-- The opcode map of rule R83; "every row's mask is 0xFFFFFFFF" (rule R80). -/
def opcodeTable : List OpcodeRow :=
  [ ⟨0xFFFFFFFF#32, 0x00000000#32, .nop⟩,
    ⟨0xFFFFFFFF#32, 0x00000001#32, .tlvStart⟩,
    ⟨0xFFFFFFFF#32, 0x00000002#32, .tlvNext⟩,
    ⟨0xFFFFFFFF#32, 0x00000003#32, .recStart⟩,
    ⟨0xFFFFFFFF#32, 0x00000004#32, .recNext⟩,
    ⟨0xFFFFFFFF#32, 0x00000005#32, .locate⟩,
    ⟨0xFFFFFFFF#32, 0x00000006#32, .softReset⟩ ]

/-- A word matches a row when it equals the row's pattern under the row's mask. -/
def OpcodeRow.hit (r : OpcodeRow) (w : Word) : Bool := (w &&& r.mask) == r.pattern

/-- The field RSV = CMD[31:8] (rule R81). -/
def cmdRsv (w : Word) : BitVec 24 := w.extractLsb' 8 24

/-- The field OP = CMD[7:0] (rule R81). -/
def cmdOp (w : Word) : BitVec 8 := w.extractLsb' 0 8

/-- Decode a word written to CMD: the command of the row it matches, or the name of the reason it is
illegal (rules R80, R84). Total on all 2^32 words. -/
def decode (w : Word) : Except DecodeError Instr :=
  match opcodeTable.find? (·.hit w) with
  | some r => .ok r.instr
  | none => if cmdRsv w = 0#24 then .error .opcodeUnassigned else .error .reservedBitsSet

/-- The opcode OP of each command (rule R83, column OP). -/
def opcodeOf : Instr → BitVec 8
  | .nop => 0x00#8
  | .tlvStart => 0x01#8
  | .tlvNext => 0x02#8
  | .recStart => 0x03#8
  | .recNext => 0x04#8
  | .locate => 0x05#8
  | .softReset => 0x06#8

/-- The word of a command in the format CMD32 (rule R81): RSV = 0 above OP. -/
def encode (i : Instr) : Word := 0#24 ++ opcodeOf i

/-- The command read from an instruction numbered as spec/opcode_table.json numbers its rows: `nbits`
bits of `w`, every bit above them 0. DEDUCED, safe: assumption 14. -/
def decodeTableWord (nbits w : Nat) : Option Instr :=
  let v := w % 2 ^ nbits
  if v < 2 ^ 32 then
    match decode (toWord v) with
    | .ok i => some i
    | .error _ => none
  else none

end Sys2Proof
end

