-- ==== Sys2Proof/Config.lean ====
section
/-! DEFINITION. What an implementation fixes and what the spec leaves open: BUF_SIZE (rule R6) and
the contents of BUF after a hardware reset (rule R222). Neither has a body. -/

namespace Sys2Proof

/-- `BUF_SIZE - 1`: an open parameter (rule R6, decision D5), so `1 <= BUF_SIZE <= 2^32 - 1`.
No body: nothing can evaluate it. DESIGN CHOICE (representation), safe: assumption 3. -/
opaque Config.bufSizeLessOne : Fin 4294967295

/-- `BUF_SIZE` as the 32-bit number CFG_BUF_SIZE holds (rules R6, R25). -/
def Config.bufSize : Word := toWord (Config.bufSizeLessOne.val + 1)

/-- The byte that BUF offset `a` holds after the hardware reset number `draw` until the host writes
it: "an unspecified value ... a model must not assume it. A model draws it as a free input at
reset" (rule R222, item I1). A free value: no body. DESIGN CHOICE
(representation), safe: assumption 1. -/
opaque Config.bufPowerOn (draw a : Nat) : Byte

end Sys2Proof
end

