-- ==== Sys2Proof/Machine/State.lean ====
section
/-! DEFINITION. The machine's state as plain data: every register of rule R21 with the fields of rules
R22 to R49, the memory BUF (rule R60), and the host's side of the interface (the model's own). -/

namespace Sys2Proof.Machine

/-- Why a step stops with a fault. The block itself has none (rule R200). -/
inductive Fault where
  /-- Raised by LOCATE if its search were still running after `BUF_LEN + 1` internal TLV_NEXT steps.
  Rule R177 says that cannot happen ("it cannot hang"), so no state reaches it; it stands only
  because the search is written with that bound. DESIGN CHOICE, safe: assumption 11. -/
  | locateSearchUnfinished
  deriving DecidableEq, Repr

/-- Why the model gives an input no step. -/
inductive Refusal where
  /-- A command that has no meaning yet; raised by `exec` only. No command is left without one. -/
  | notModelled (mnemonic : String)
  /-- Raised by a host register access that is not a 32-bit access at a multiple of 4 in
  `0x00..0xFC`: "refused: a model gives it no step" (rules R65, R187, item I3). Safe: the spec
  itself refuses it. DESIGN CHOICE (the form): assumption 6. -/
  | registerAccessRefused
  deriving DecidableEq, Repr

/-- TLV END_CAUSE (rule R202). The codes 7 to 15 are never produced and have no constructor. DESIGN
CHOICE, safe: assumption 7. -/
inductive TlvCause where
  | none
  | idle
  | terminator
  | eobTag
  | eobLen
  | eobExtLen
  | eobValue
  deriving DecidableEq, Repr

/-- Record END_CAUSE (rule R203). The codes 10 to 15 are never produced and have no constructor. -/
inductive RecCause where
  | none
  | idle
  | messageEnd
  | exhausted
  | truncHeader
  | truncPlen
  | truncIdLen
  | truncType
  | truncId
  | truncPayload
  deriving DecidableEq, Repr

/-- LFMT (rule R26): the length form of the entry in the result registers. The value 3 is never
produced and has no constructor. -/
inductive LenForm where
  | none
  | short
  | extended
  deriving DecidableEq, Repr

/-- TLV_STATUS (rule R26). Held as fields: DESIGN CHOICE, safe: assumptions 7 and 8. -/
structure TlvStatus where
  valid : Bool
  done : Bool
  lfmt : LenForm
  endCause : TlvCause
  deriving DecidableEq, Repr

/-- The TLV walker registers (rules R26 to R33). -/
structure TlvRegs where
  /-- TLV_STATUS, rule R26. -/
  status : TlvStatus
  /-- TLV_CUR, rule R27. -/
  cur : Word
  /-- TLV_LIM, rule R28. -/
  lim : Word
  /-- TLV_TAG[7:0], rule R29. -/
  tag : Byte
  /-- TLV_LEN[15:0], rule R30. -/
  len : Half
  /-- TLV_TOFF, rule R31. -/
  toff : Word
  /-- TLV_VOFF, rule R32. -/
  voff : Word
  /-- TLV_COUNT, rule R33. -/
  count : Word
  deriving DecidableEq, Repr

/-- MSG_STATUS (rule R34). -/
structure MsgStatus where
  found : Bool
  ran : Bool
  nfCause : TlvCause
  deriving DecidableEq, Repr

/-- The message locator registers (rules R34 to R36). -/
structure MsgRegs where
  /-- MSG_STATUS, rule R34. -/
  status : MsgStatus
  /-- MSG_OFF, rule R35. -/
  off : Word
  /-- MSG_LEN, rule R36. -/
  len : Word
  deriving DecidableEq, Repr

/-- REC_STATUS (rule R37). -/
structure RecStatus where
  valid : Bool
  done : Bool
  endCause : RecCause
  deriving DecidableEq, Repr

/-- REC_HDR (rule R40): the header byte RAW and its unpacked fields. -/
structure RecHdr where
  raw : Byte
  mb : Bool
  me : Bool
  cf : Bool
  sr : Bool
  il : Bool
  tnf : BitVec 3
  deriving DecidableEq, Repr

/-- The record parser registers (rules R37 to R49). -/
structure RecRegs where
  /-- REC_STATUS, rule R37. -/
  status : RecStatus
  /-- REC_CUR, rule R38. -/
  cur : Word
  /-- REC_END, rule R39. -/
  endOff : Word
  /-- REC_HDR, rule R40. -/
  hdr : RecHdr
  /-- REC_TYPE_LEN[7:0], rule R41. -/
  typeLen : Byte
  /-- REC_ID_LEN[7:0], rule R42. -/
  idLen : Byte
  /-- REC_PAYLOAD_LEN, rule R43. -/
  payloadLen : Word
  /-- REC_ROFF, rule R44. -/
  roff : Word
  /-- REC_TYPE_OFF, rule R45. -/
  typeOff : Word
  /-- REC_ID_OFF, rule R46. -/
  idOff : Word
  /-- REC_PAYLOAD_OFF, rule R47. -/
  payloadOff : Word
  /-- REC_COUNT, rule R48. -/
  count : Word
  /-- REC_BASE, rule R49. -/
  base : Word
  deriving DecidableEq, Repr

/-- BUF (rule R60): the bytes the host has written since the last hardware reset, addresses strictly
rising, and the number of that reset, which names the draw of the other bytes (rule R222). -/
structure Memory where
  draw : Nat
  cells : List Host.Cell
  deriving DecidableEq, Repr

/-- The host's side of the interface, the model's own (rules R70, R88): the inputs not yet performed,
next first, and the values its reads have returned, oldest first. DESIGN CHOICE, safe:
assumption 4. -/
structure HostPort where
  pending : List Input
  returned : List ReadValue
  deriving DecidableEq, Repr

/-- The whole state (rule R20). CMD has no field: it "holds no state" (rule R22). -/
structure State where
  /-- BUF, rule R60. -/
  buf : Memory
  /-- CFG_BUF_SIZE, rule R25: the parameter BUF_SIZE, written by nothing. -/
  cfgBufSize : Word
  /-- GSTATUS.CMD_ERR, rule R23. -/
  cmdErr : Bool
  /-- BUF_LEN, rule R24. -/
  bufLen : Word
  /-- The TLV walker registers, rules R26 to R33. -/
  tlv : TlvRegs
  /-- The message locator registers, rules R34 to R36. -/
  msg : MsgRegs
  /-- The record parser registers, rules R37 to R49. -/
  ndef : RecRegs
  /-- The host's side: the model's own field. -/
  host : HostPort
  deriving DecidableEq, Repr

/-- The TLV walker registers after reset (rule R220). -/
def TlvRegs.reset : TlvRegs where
  status := ⟨false, true, .none, .idle⟩
  cur := 0
  lim := 0
  tag := 0
  len := 0
  toff := 0
  voff := 0
  count := 0

/-- The message locator registers after reset (rule R220). -/
def MsgRegs.reset : MsgRegs where
  status := ⟨false, false, .none⟩
  off := 0
  len := 0

/-- REC_HDR holding 0. -/
def RecHdr.zero : RecHdr := ⟨0, false, false, false, false, false, 0⟩

/-- The record parser registers after reset (rule R220). -/
def RecRegs.reset : RecRegs where
  status := ⟨false, true, .idle⟩
  cur := 0
  endOff := 0
  hdr := RecHdr.zero
  typeLen := 0
  idLen := 0
  payloadLen := 0
  roff := 0
  typeOff := 0
  idOff := 0
  payloadOff := 0
  count := 0
  base := 0

/-- The machine right after a hardware reset (rule R220): the registers at their reset values, no BUF
byte written, no host access pending. -/
def State.reset : State where
  buf := ⟨0, []⟩
  cfgBufSize := Config.bufSize
  cmdErr := false
  bufLen := 0
  tlv := TlvRegs.reset
  msg := MsgRegs.reset
  ndef := RecRegs.reset
  host := ⟨[], []⟩

end Sys2Proof.Machine
end

