-- ==== Sys2Proof/Machine/Flags.lean ====
section
/-! DEFINITION. The bit fields: the header unpacker (rule R130) and the status and header registers as
the 32-bit words a host read returns (rules R23, R26, R34, R37, R40). -/

namespace Sys2Proof.Machine

/-- `UnpackHeader(h)`, MSB to LSB (rules R87, R130). -/
def unpackHeader (h : Byte) : RecHdr where
  raw := h
  mb := h.getLsbD 7
  me := h.getLsbD 6
  cf := h.getLsbD 5
  sr := h.getLsbD 4
  il := h.getLsbD 3
  tnf := h.extractLsb' 0 3

/-- The code of a TLV END_CAUSE (rule R202). -/
def TlvCause.code : TlvCause → BitVec 4
  | .none => 0
  | .idle => 1
  | .terminator => 2
  | .eobTag => 3
  | .eobLen => 4
  | .eobExtLen => 5
  | .eobValue => 6

/-- The code of a record END_CAUSE (rule R203). -/
def RecCause.code : RecCause → BitVec 4
  | .none => 0
  | .idle => 1
  | .messageEnd => 2
  | .exhausted => 3
  | .truncHeader => 4
  | .truncPlen => 5
  | .truncIdLen => 6
  | .truncType => 7
  | .truncId => 8
  | .truncPayload => 9

/-- The code of LFMT (rule R26). -/
def LenForm.code : LenForm → BitVec 2
  | .none => 0
  | .short => 1
  | .extended => 2

/-- The field `v` with its bit 0 at bit `pos` of a register (rule R9). -/
def field {w : Nat} (v : BitVec w) (pos : Nat) : Word := v.zeroExtend 32 <<< pos

/-- GSTATUS as a word: CMD_ERR in bit 0 (rule R23). -/
def gstatusWord (cmdErr : Bool) : Word := field (BitVec.ofBool cmdErr) 0

/-- TLV_STATUS as a word: VALID [0], DONE [1], LFMT [3:2], END_CAUSE [7:4] (rule R26). -/
def TlvStatus.word (t : TlvStatus) : Word :=
  field (BitVec.ofBool t.valid) 0 ||| field (BitVec.ofBool t.done) 1 ||| field t.lfmt.code 2 |||
    field t.endCause.code 4

/-- MSG_STATUS as a word: FOUND [0], RAN [1], NF_CAUSE [7:4] (rule R34). -/
def MsgStatus.word (t : MsgStatus) : Word :=
  field (BitVec.ofBool t.found) 0 ||| field (BitVec.ofBool t.ran) 1 ||| field t.nfCause.code 4

/-- REC_STATUS as a word: VALID [0], DONE [1], END_CAUSE [7:4] (rule R37). -/
def RecStatus.word (t : RecStatus) : Word :=
  field (BitVec.ofBool t.valid) 0 ||| field (BitVec.ofBool t.done) 1 ||| field t.endCause.code 4

/-- REC_HDR as a word: RAW [7:0], MB [8], ME [9], CF [10], SR [11], IL [12], TNF [18:16] (rule R40). -/
def RecHdr.word (h : RecHdr) : Word :=
  field h.raw 0 ||| field (BitVec.ofBool h.mb) 8 ||| field (BitVec.ofBool h.me) 9 |||
    field (BitVec.ofBool h.cf) 10 ||| field (BitVec.ofBool h.sr) 11 |||
    field (BitVec.ofBool h.il) 12 ||| field h.tnf 16

end Sys2Proof.Machine
end

