-- ==== Sys2Proof/Machine/Ops.lean ====
section
/-! DEFINITION. The shared operations: reading and writing BUF, updating one part of State, the outcomes
of a TLV step and of a record step (rules R103, R106, R107, R136, R139, R140), and the reset of the
registers. Taking an exception and returning from one have no operation here: the block has neither
(rules R200, R206). -/

namespace Sys2Proof.Machine

/-! ### BUF (rules R11, R60, R222) -/

/-- The byte listed for address `a`, if the host has written one. -/
def lookupCell : List Host.Cell → Nat → Option Byte
  | [], _ => none
  | (k, b) :: rest, a => if k = a then some b else lookupCell rest a

/-- Put byte `b` at address `a`, keeping the addresses strictly rising. -/
def insertCell : List Host.Cell → Nat → Byte → List Host.Cell
  | [], a, b => [(a, b)]
  | (k, c) :: rest, a, b =>
    if a < k then (a, b) :: (k, c) :: rest
    else if a = k then (a, b) :: rest
    else (k, c) :: insertCell rest a b

/-- The first address of `cells`, if any, is above `a`. -/
def headAbove (a : Nat) : List Host.Cell → Bool
  | [] => true
  | (k, _) :: _ => decide (a < k)

/-- The addresses rise strictly. -/
def risingCells : List Host.Cell → Bool
  | [] => true
  | (k, _) :: rest => headAbove k rest && risingCells rest

/-- The canonical form of BUF: strictly rising addresses. An unlisted address has no byte of its own
at this layer, so no entry can equal it. DESIGN CHOICE, safe: assumption 2. -/
def Memory.wf (m : Memory) : Bool := risingCells m.cells

/-- What an unlisted address reads as: the free byte drawn for it at the last hardware reset (rule
R222). -/
def Memory.unlisted (m : Memory) (a : Nat) : Byte := Config.bufPowerOn m.draw a

/-- `MemRead(a, 1)` (rule R11): the byte `BUF[a]`. At or past BUF_SIZE, in states no run reaches: DESIGN
CHOICE, safe: assumption 9. -/
def Memory.read (m : Memory) (a : Nat) : Byte := (lookupCell m.cells a).getD (m.unlisted a)

/-- `BUF[a] <- b`, for an `a` inside BUF (rule R188). -/
def Memory.write (m : Memory) (a : Nat) (b : Byte) : Memory := ⟨m.draw, insertCell m.cells a b⟩

/-- BUF after another hardware reset: no byte written, a new draw (rule R222). -/
def Memory.redraw (m : Memory) : Memory := ⟨m.draw + 1, []⟩

/-- `BE16(a)`: two bytes, the first most significant (rules R11, R63). -/
def Memory.be16 (m : Memory) (a : Nat) : Half := m.read a ++ m.read (a + 1)

/-- `BE32(a)`: four bytes, the first most significant (rules R11, R63). -/
def Memory.be32 (m : Memory) (a : Nat) : Word :=
  m.read a ++ m.read (a + 1) ++ m.read (a + 2) ++ m.read (a + 3)

/-- The slice `BUF[off : off + len]` (rule R12). -/
def Memory.slice (m : Memory) (off : Nat) : Nat → List Byte
  | 0 => []
  | len + 1 => m.read off :: m.slice (off + 1) len

/-! ### One part of State -/

def State.setBuf (s : State) (m : Memory) : State := { s with buf := m }
def State.setCmdErr (s : State) (e : Bool) : State := { s with cmdErr := e }
def State.setBufLen (s : State) (v : Word) : State := { s with bufLen := v }
def State.setTlv (s : State) (r : TlvRegs) : State := { s with tlv := r }
def State.setMsg (s : State) (r : MsgRegs) : State := { s with msg := r }
def State.setNdef (s : State) (r : RecRegs) : State := { s with ndef := r }

/-- The pending inputs replaced. -/
def State.setPending (s : State) (p : List Input) : State :=
  { s with host := { s.host with pending := p } }

/-- A host read returns `v`. -/
def State.reply (s : State) (v : ReadValue) : State :=
  { s with host := { s.host with returned := s.host.returned ++ [v] } }

/-- A legal command's first effect: `GSTATUS.CMD_ERR <- 0` (rule R182). -/
def State.clearErr (s : State) : State := s.setCmdErr false

/-! ### The outcomes of a TLV step -/

/-- `clear_tlv_result()` (rule R103). -/
def TlvRegs.clearResult (r : TlvRegs) : TlvRegs :=
  { r with tag := 0, len := 0, toff := 0, voff := 0, status := { r.status with lfmt := .none } }

/-- The registers after TLV_START with BUF_LEN = `lim` (rule R104). -/
def TlvRegs.start (r : TlvRegs) (lim : Word) : TlvRegs :=
  { r.clearResult with
    cur := 0, lim := lim, count := 0, status := ⟨false, false, .none, .none⟩ }

/-- `yield_tlv(tag, toff, len, voff, fmt, next)` (rule R106). -/
def TlvRegs.yield (r : TlvRegs) (tag : Byte) (toff len voff : Nat) (fmt : LenForm) (next : Nat) :
    TlvRegs :=
  { r with
    tag := tag, toff := toWord toff, len := BitVec.ofNat 16 len, voff := toWord voff
    status := { r.status with lfmt := fmt, valid := true }
    cur := toWord next, count := r.count + 1 }

/-- The Terminator's second effect: `DONE <- 1; END_CAUSE <- TERMINATOR` (rule R105 step 2). -/
def TlvRegs.terminate (r : TlvRegs) : TlvRegs :=
  { r with status := { r.status with done := true, endCause := .terminator } }

/-- `end_tlv(c)` (rule R107). -/
def TlvRegs.endWith (r : TlvRegs) (c : TlvCause) : TlvRegs :=
  { r.clearResult with status := ⟨false, true, .none, c⟩ }

/-- A step after the end: VALID cleared, results cleared, the rest kept (rule R108). -/
def TlvRegs.noYield (r : TlvRegs) : TlvRegs :=
  { r.clearResult with status := { r.status with valid := false, lfmt := .none } }

/-! ### The outcomes of a record step -/

/-- `clear_rec_result()` (rule R136). -/
def RecRegs.clearResult (r : RecRegs) : RecRegs :=
  { r with
    hdr := RecHdr.zero, typeLen := 0, idLen := 0, payloadLen := 0
    roff := 0, typeOff := 0, idOff := 0, payloadOff := 0 }

/-- The registers after REC_START over the window `[base, endOff)` (rule R137). -/
def RecRegs.start (r : RecRegs) (base endOff : Nat) : RecRegs :=
  { r.clearResult with
    endOff := toWord endOff, base := toWord base, cur := toWord base, count := 0
    status := ⟨false, false, .none⟩ }

/-- `yield_rec(h, tl, il, pl, roff, toff, ioff, poff, next)` (rule R139). -/
def RecRegs.yield (r : RecRegs) (h tl il : Byte) (pl : Word) (roff toff ioff poff next : Nat) :
    RecRegs :=
  { r with
    hdr := unpackHeader h, typeLen := tl, idLen := il, payloadLen := pl
    roff := toWord roff, typeOff := toWord toff, idOff := toWord ioff, payloadOff := toWord poff
    cur := toWord next, count := r.count + 1
    status := { r.status with valid := true } }

/-- The ME record's second effect: `DONE <- 1; END_CAUSE <- MESSAGE_END` (rule R138 step 10). -/
def RecRegs.finish (r : RecRegs) : RecRegs :=
  { r with status := { r.status with done := true, endCause := .messageEnd } }

/-- `end_rec(c)` (rule R140). -/
def RecRegs.endWith (r : RecRegs) (c : RecCause) : RecRegs :=
  { r.clearResult with status := ⟨false, true, c⟩ }

/-- A step after the end: VALID cleared, results cleared, the rest kept (rule R141). -/
def RecRegs.noYield (r : RecRegs) : RecRegs :=
  { r.clearResult with status := { r.status with valid := false } }

/-! ### Reset -/

/-- Every register of rule R21 at its reset value, CFG_BUF_SIZE (a constant, rule R25), BUF and the
host's side kept (rules R181, R220). DEDUCED, safe: assumption 13. -/
def State.resetRegs (s : State) : State :=
  { State.reset with buf := s.buf, cfgBufSize := s.cfgBufSize, host := s.host }

/-- The hardware reset as an input between two accesses: the registers reset and BUF drawn anew
(rules R220, R222). -/
def State.hardReset (s : State) : State := s.resetRegs.setBuf s.buf.redraw

end Sys2Proof.Machine
end

