-- ==== Sys2Proof/Machine/Control.lean ====
section
/-! DEFINITION. The control commands NOP and SOFT_RESET, and the illegal command (rules R180 to R183). -/

namespace Sys2Proof.Machine

/-- NOP (rule R180): `GSTATUS.CMD_ERR <- 0`. -/
def execNop (s : State) : Host.Outcome State Fault Refusal := .next s.clearErr

/-- SOFT_RESET (rule R181): every register takes its reset value, BUF is not changed. -/
def execSoftReset (s : State) : Host.Outcome State Fault Refusal := .next s.resetRegs

/-- A write to CMD of a word that is no command (rule R183): `GSTATUS.CMD_ERR <- 1` and nothing else. -/
def illegalCommand (s : State) : State := s.setCmdErr true

end Sys2Proof.Machine
end

