-- ==== Sys2Proof/Machine/Operands.lean ====
section
/-! DEFINITION. The operand forms a command reads from BUF: the two variable-length field decoders
(rules R100, R132) and the record's other fields (rules R133, R134). No command word carries an
operand (rule R82). -/

namespace Sys2Proof.Machine

/-- The result of `DecodeTlvLength` (rule R100): `OK(len, fmt, next)` or `TRUNC(cause)`. -/
inductive TlvLength where
  | ok (len : Nat) (fmt : LenForm) (next : Nat)
  | trunc (cause : TlvCause)
  deriving DecidableEq, Repr

/-- `DecodeTlvLength(q, n)` (rules R100, R101). The bound is tested before each read. -/
def decodeTlvLength (m : Memory) (q n : Nat) : TlvLength :=
  if n ≤ q then .trunc .eobLen
  else if m.read q ≠ 0xFF#8 then .ok (m.read q).toNat .short (q + 1)
  else if n < q + 3 then .trunc .eobExtLen
  else .ok (m.be16 (q + 1)).toNat .extended (q + 3)

/-- `DecodePayloadLength(q, e, SR)` (rule R132): the length and the next offset, or nothing (`TRUNC`). -/
def decodePayloadLength (m : Memory) (q e : Nat) (sr : Bool) : Option (Word × Nat) :=
  if sr then
    if e < q + 1 then none else some ((m.read q).zeroExtend 32, q + 1)
  else
    if e < q + 4 then none else some (m.be32 q, q + 4)

/-- The id length and the next offset (rules R134, R138 step 5), or nothing (`TRUNC_IDLEN`, rule
R144). -/
def decodeIdLength (m : Memory) (q e : Nat) (il : Bool) : Option (Byte × Nat) :=
  if il then
    if e < q + 1 then none else some (m.read q, q + 1)
  else some (0, q)

end Sys2Proof.Machine
end

