-- ==== Sys2Proof/Machine/Tlv.lean ====
section
/-! DEFINITION. The TLV walker: TLV_START and TLV_NEXT (rules R104 to R113). -/

namespace Sys2Proof.Machine

/-- The frame after a tag with a length field (rule R105 steps 4 to 7): `p` is the offset of the tag,
`n` the walk limit. -/
def tlvGenericFrame (m : Memory) (r : TlvRegs) (tag : Byte) (p n : Nat) : TlvRegs :=
  match decodeTlvLength m (p + 1) n with
  | .trunc c => r.endWith c
  | .ok len fmt q =>
    if n < q + len then r.endWith .eobValue
    else r.yield tag p len q fmt (q + len)

/-- The walker registers after one TLV_NEXT (rule R105). -/
def tlvNextRegs (m : Memory) (r : TlvRegs) : TlvRegs :=
  if r.status.done then r.noYield
  else if r.lim.toNat ≤ r.cur.toNat then r.endWith .eobTag
  else
    let p := r.cur.toNat
    let tag := m.read p
    if tag = 0xFE#8 then (r.yield tag p 0 (p + 1) .none (p + 1)).terminate
    else if tag = 0x00#8 then r.yield tag p 0 (p + 1) .none (p + 1)
    else tlvGenericFrame m r tag p r.lim.toNat

/-- TLV_START (rule R104). -/
def execTlvStart (s : State) : Host.Outcome State Fault Refusal :=
  .next (s.clearErr.setTlv (s.tlv.start s.bufLen))

/-- TLV_NEXT (rule R105). -/
def execTlvNext (s : State) : Host.Outcome State Fault Refusal :=
  .next (s.clearErr.setTlv (tlvNextRegs s.buf s.tlv))

end Sys2Proof.Machine
end

