-- ==== Sys2Proof/Machine/Locator.lean ====
section
/-! DEFINITION. The message locator: LOCATE (rules R170 to R177). -/

namespace Sys2Proof.Machine

/-- The search has its match: `VALID = 1` and `TLV_TAG = 0x03` (rule R170). -/
def TlvRegs.atMessage (r : TlvRegs) : Bool := r.status.valid && r.tag == 0x03#8

/-- The loop of rule R170, at most `fuel` internal TLV_NEXT steps: the walker registers at its
`return`, or nothing if it has not returned by then. -/
def locateLoop (m : Memory) : Nat → TlvRegs → Option TlvRegs
  | 0, _ => none
  | fuel + 1, r =>
    let r' := tlvNextRegs m r
    if r'.atMessage then some r'
    else if r'.status.done then some r'
    else locateLoop m fuel r'

/-- The message registers LOCATE writes, from the walker registers its last step left (rule R170). -/
def locateResult (r : TlvRegs) : MsgRegs :=
  if r.atMessage then
    { status := ⟨true, true, .none⟩, off := r.voff, len := toWord r.len.toNat }
  else
    { status := ⟨false, true, r.status.endCause⟩, off := 0, len := 0 }

/-- LOCATE (rule R170): TLV_START, then TLV_NEXT until the first entry with tag 0x03 or the end, one
atomic command. Rule R177 bounds the steps by `BUF_LEN + 1`; DESIGN CHOICE,
safe: assumption 11. -/
def execLocate (s : State) : Host.Outcome State Fault Refusal :=
  match locateLoop s.buf (s.bufLen.toNat + 1) (s.tlv.start s.bufLen) with
  | some r => .next ((s.clearErr.setTlv r).setMsg (locateResult r))
  | none => .fault .locateSearchUnfinished

end Sys2Proof.Machine
end

