-- ==== Sys2Proof/Machine/Record.lean ====
section
/-! DEFINITION. The NDEF record parser: REC_START and REC_NEXT (rules R137 to R147). -/

namespace Sys2Proof.Machine

/-- Steps 6 to 10 of rule R138: type, id and payload, each bounds-checked exactly, then the yield. `p`
is the offset of the header byte `h`, `q` the offset of the type, `e` the window end. -/
def recFields (r : RecRegs) (h tl il : Byte) (pl : Word) (p q e : Nat) : RecRegs :=
  let toff := q
  let ioff := toff + tl.toNat
  let poff := ioff + il.toNat
  let next := poff + pl.toNat
  if e < ioff then r.endWith .truncType
  else if e < poff then r.endWith .truncId
  else if e < next then r.endWith .truncPayload
  else
    let y := r.yield h tl il pl p toff ioff poff next
    if (unpackHeader h).me then y.finish else y

/-- Steps 2 to 5 of rule R138: header, type length, payload length and id length. -/
def recLengths (m : Memory) (r : RecRegs) (p e : Nat) : RecRegs :=
  let h := m.read p
  let tl := m.read (p + 1)
  match decodePayloadLength m (p + 2) e (unpackHeader h).sr with
  | none => r.endWith .truncPlen
  | some (pl, q) =>
    match decodeIdLength m q e (unpackHeader h).il with
    | none => r.endWith .truncIdLen
    | some (il, q') => recFields r h tl il pl p q' e

/-- The record parser registers after one REC_NEXT (rule R138). -/
def recNextRegs (m : Memory) (r : RecRegs) : RecRegs :=
  if r.status.done then r.noYield
  else if r.cur.toNat = r.endOff.toNat then r.endWith .exhausted
  else if r.endOff.toNat < r.cur.toNat + 2 then r.endWith .truncHeader
  else recLengths m r r.cur.toNat r.endOff.toNat

/-- REC_END as REC_START computes it (rule R137): `min(MSG_OFF + MSG_LEN, BUF_LEN)`, exactly. -/
def windowEnd (s : State) : Nat := min (s.msg.off.toNat + s.msg.len.toNat) s.bufLen.toNat

/-- REC_BASE as REC_START computes it (rule R137): `min(MSG_OFF, REC_END)`. -/
def windowBase (s : State) : Nat := min s.msg.off.toNat (windowEnd s)

/-- REC_START (rule R137). -/
def execRecStart (s : State) : Host.Outcome State Fault Refusal :=
  .next (s.clearErr.setNdef (s.ndef.start (windowBase s) (windowEnd s)))

/-- REC_NEXT (rule R138). -/
def execRecNext (s : State) : Host.Outcome State Fault Refusal :=
  .next (s.clearErr.setNdef (recNextRegs s.buf s.ndef))

end Sys2Proof.Machine
end

