-- ==== Sys2Proof/Machine/Dispatch.lean ====
section
/-! DEFINITION. One arm per command of rule R83. -/

namespace Sys2Proof.Machine

def exec (i : Instr) (s : State) : Host.Outcome State Fault Refusal :=
  match i with
  | .nop => Sys2Proof.Machine.execNop s
  | .tlvStart => Sys2Proof.Machine.execTlvStart s
  | .tlvNext => Sys2Proof.Machine.execTlvNext s
  | .recStart => Sys2Proof.Machine.execRecStart s
  | .recNext => Sys2Proof.Machine.execRecNext s
  | .locate => Sys2Proof.Machine.execLocate s
  | .softReset => Sys2Proof.Machine.execSoftReset s

end Sys2Proof.Machine
end

