-- ==== Sys2Proof/Machine/Registers.lean ====
section
/-! DEFINITION. The register space (rule R21): the map from offsets to registers, and what a host read
or write of each register does (rules R184 to R186). -/

namespace Sys2Proof.Machine

/-- The mapped registers, by name (rule R21). -/
inductive Reg where
  | CMD | GSTATUS | BUF_LEN | CFG_BUF_SIZE
  | TLV_STATUS | TLV_CUR | TLV_LIM | TLV_TAG | TLV_LEN | TLV_TOFF | TLV_VOFF | TLV_COUNT
  | MSG_STATUS | MSG_OFF | MSG_LEN
  | REC_STATUS | REC_CUR | REC_END | REC_HDR | REC_TYPE_LEN | REC_ID_LEN | REC_PAYLOAD_LEN
  | REC_ROFF | REC_TYPE_OFF | REC_ID_OFF | REC_PAYLOAD_OFF | REC_COUNT | REC_BASE
  deriving DecidableEq, Repr

/-- The offset of a register (rule R21, column offset). -/
def Reg.offset : Reg → Nat
  | .CMD => 0x00
  | .GSTATUS => 0x04
  | .BUF_LEN => 0x08
  | .CFG_BUF_SIZE => 0x0C
  | .TLV_STATUS => 0x10
  | .TLV_CUR => 0x14
  | .TLV_LIM => 0x18
  | .TLV_TAG => 0x1C
  | .TLV_LEN => 0x20
  | .TLV_TOFF => 0x24
  | .TLV_VOFF => 0x28
  | .TLV_COUNT => 0x2C
  | .MSG_STATUS => 0x30
  | .MSG_OFF => 0x34
  | .MSG_LEN => 0x38
  | .REC_STATUS => 0x40
  | .REC_CUR => 0x44
  | .REC_END => 0x48
  | .REC_HDR => 0x4C
  | .REC_TYPE_LEN => 0x50
  | .REC_ID_LEN => 0x54
  | .REC_PAYLOAD_LEN => 0x58
  | .REC_ROFF => 0x5C
  | .REC_TYPE_OFF => 0x60
  | .REC_ID_OFF => 0x64
  | .REC_PAYLOAD_OFF => 0x68
  | .REC_COUNT => 0x6C
  | .REC_BASE => 0x70

/-- Every mapped register, in the order of rule R21. -/
def Reg.all : List Reg :=
  [.CMD, .GSTATUS, .BUF_LEN, .CFG_BUF_SIZE,
   .TLV_STATUS, .TLV_CUR, .TLV_LIM, .TLV_TAG, .TLV_LEN, .TLV_TOFF, .TLV_VOFF, .TLV_COUNT,
   .MSG_STATUS, .MSG_OFF, .MSG_LEN,
   .REC_STATUS, .REC_CUR, .REC_END, .REC_HDR, .REC_TYPE_LEN, .REC_ID_LEN, .REC_PAYLOAD_LEN] ++
  [.REC_ROFF, .REC_TYPE_OFF, .REC_ID_OFF, .REC_PAYLOAD_OFF, .REC_COUNT, .REC_BASE]

/-- The register mapped at an offset, if any (rules R21, R186). -/
def Reg.at? (offset : Nat) : Option Reg := Reg.all.find? (·.offset == offset)

/-- The bits a register defines; the others read as 0 (rules R7, R22 to R49). -/
def Reg.definedBits : Reg → Word
  | .CMD => 0
  | .GSTATUS => 0x00000001
  | .TLV_STATUS => 0x000000FF
  | .TLV_TAG | .REC_TYPE_LEN | .REC_ID_LEN => 0x000000FF
  | .TLV_LEN => 0x0000FFFF
  | .MSG_STATUS | .REC_STATUS => 0x000000F3
  | .REC_HDR => 0x00071FFF
  | .BUF_LEN | .CFG_BUF_SIZE
  | .TLV_CUR | .TLV_LIM | .TLV_TOFF | .TLV_VOFF | .TLV_COUNT
  | .MSG_OFF | .MSG_LEN
  | .REC_CUR | .REC_END | .REC_PAYLOAD_LEN
  | .REC_ROFF | .REC_TYPE_OFF | .REC_ID_OFF | .REC_PAYLOAD_OFF | .REC_COUNT | .REC_BASE => 0xFFFFFFFF

/-- The value a host read of a mapped register returns (rules R7, R184; the fields of R22 to R49). -/
def readReg (s : State) : Reg → Word
  | .CMD => 0
  | .GSTATUS => gstatusWord s.cmdErr
  | .BUF_LEN => s.bufLen
  | .CFG_BUF_SIZE => s.cfgBufSize
  | .TLV_STATUS => s.tlv.status.word
  | .TLV_CUR => s.tlv.cur
  | .TLV_LIM => s.tlv.lim
  | .TLV_TAG => s.tlv.tag.zeroExtend 32
  | .TLV_LEN => s.tlv.len.zeroExtend 32
  | .TLV_TOFF => s.tlv.toff
  | .TLV_VOFF => s.tlv.voff
  | .TLV_COUNT => s.tlv.count
  | .MSG_STATUS => s.msg.status.word
  | .MSG_OFF => s.msg.off
  | .MSG_LEN => s.msg.len
  | .REC_STATUS => s.ndef.status.word
  | .REC_CUR => s.ndef.cur
  | .REC_END => s.ndef.endOff
  | .REC_HDR => s.ndef.hdr.word
  | .REC_TYPE_LEN => s.ndef.typeLen.zeroExtend 32
  | .REC_ID_LEN => s.ndef.idLen.zeroExtend 32
  | .REC_PAYLOAD_LEN => s.ndef.payloadLen
  | .REC_ROFF => s.ndef.roff
  | .REC_TYPE_OFF => s.ndef.typeOff
  | .REC_ID_OFF => s.ndef.idOff
  | .REC_PAYLOAD_OFF => s.ndef.payloadOff
  | .REC_COUNT => s.ndef.count
  | .REC_BASE => s.ndef.base

/-- The value BUF_LEN stores for a host write of `v`: `min(v, BUF_SIZE)` (rules R24, R185). -/
def clampLen (s : State) (v : Word) : Word := if v ≤ s.cfgBufSize then v else s.cfgBufSize

/-- A host write of `v` to a mapped register other than CMD (rule R185): BUF_LEN, MSG_OFF and MSG_LEN
store it, a read-only register ignores it. A write to CMD is a command and does not come here. -/
def writeReg (s : State) (v : Word) : Reg → State
  | .BUF_LEN => s.setBufLen (clampLen s v)
  | .MSG_OFF => s.setMsg { s.msg with off := v }
  | .MSG_LEN => s.setMsg { s.msg with len := v }
  | .CMD | .GSTATUS | .CFG_BUF_SIZE
  | .TLV_STATUS | .TLV_CUR | .TLV_LIM | .TLV_TAG | .TLV_LEN | .TLV_TOFF | .TLV_VOFF | .TLV_COUNT
  | .MSG_STATUS
  | .REC_STATUS | .REC_CUR | .REC_END | .REC_HDR | .REC_TYPE_LEN | .REC_ID_LEN | .REC_PAYLOAD_LEN
  | .REC_ROFF | .REC_TYPE_OFF | .REC_ID_OFF | .REC_PAYLOAD_OFF | .REC_COUNT | .REC_BASE => s

/-- A read at an aligned offset: the mapped register, or 0 at an unmapped offset (rules R184, R186). -/
def readOffset (s : State) (offset : Nat) : Word :=
  match Reg.at? offset with
  | some r => readReg s r
  | none => 0

end Sys2Proof.Machine
end

