-- ==== Sys2Proof/Machine/HostAccess.lean ====
section
/-! DEFINITION. Performing one host access, and one input (rules R65, R68, R70, R80, R184 to R189). -/

namespace Sys2Proof.Machine

/-- A write of `w` to CMD: the command `w` encodes, or the illegal command (rules R80, R183). -/
def writeCmd (s : State) (w : Word) : Host.Outcome State Fault Refusal :=
  match decode w with
  | .ok i => exec i s
  | .error _ => .next (illegalCommand s)

/-- A write of `v` at an aligned offset: a command at CMD, a store at another mapped register, ignored
at an unmapped offset (rules R185, R186). -/
def writeOffset (s : State) (offset : Nat) (v : Word) : Host.Outcome State Fault Refusal :=
  match Reg.at? offset with
  | some .CMD => writeCmd s v
  | some r => .next (writeReg s v r)
  | none => .next s

/-- The byte a host read of `BUF[a]` returns (rules R68, R189). -/
def hostReadBuf (s : State) (a : Nat) : Byte :=
  if a < s.cfgBufSize.toNat then s.buf.read a else 0

/-- The host byte write `BUF[a] <- b` (rules R68, R188). -/
def hostWriteBuf (s : State) (a : Nat) (b : Byte) : State :=
  if a < s.cfgBufSize.toNat then s.setBuf (s.buf.write a b) else s

/-- Perform one host access (rules R65, R70): a register access that is not legal is refused (rule
R187), every other access has its effect. -/
def perform (s : State) : Access → Host.Outcome State Fault Refusal
  | .regRead offset width =>
    if regAccessLegal offset width then .next (s.reply (.word (readOffset s offset)))
    else .refused .registerAccessRefused
  | .regWrite offset width v =>
    if regAccessLegal offset width then writeOffset s offset v
    else .refused .registerAccessRefused
  | .bufRead a => .next (s.reply (.byte (hostReadBuf s a)))
  | .bufWrite a b => .next (hostWriteBuf s a b)

/-- One step: the next pending input is taken and performed. With none pending the block is idle: it
"acts only on host accesses" (rules R14, R221). DEDUCED, unsafe if hardware changes while idle: assumption 5. -/
def stepPending (s : State) : Host.Outcome State Fault Refusal :=
  match s.host.pending with
  | [] => .next s
  | .access a :: rest => perform (s.setPending rest) a
  | .hardReset :: rest => .next (s.setPending rest).hardReset

/-- The access that carries an instruction word to the block: a 32-bit write to CMD (rule R22). -/
def commandAccess (w : Word) : Access := .regWrite Reg.CMD.offset .w32 w

end Sys2Proof.Machine
end

