-- ==== Sys2Proof/Machine/Step.lean ====
section
/-! DEFINITION. The step, and how an instruction word is placed where the step takes its next one. -/

namespace Sys2Proof.Machine

/-- One step of the machine (rule R70). -/
def step (s : State) : Host.Outcome State Fault Refusal := stepPending s

/-- `s` with the instruction word of `nbits` bits as the host's next access: a write of it to CMD. The
block fetches no instructions (rules R72, R90). DESIGN CHOICE, safe: assumption 4. -/
def State.withFetchWord (s : State) (nbits w : Nat) : State :=
  s.setPending (.access (commandAccess (toWord (w % 2 ^ nbits))) :: s.host.pending)

end Sys2Proof.Machine
end

