-- ==== Sys2Proof/Machine/Layout.lean ====
section
/-! DEFINITION. The layout of an NDEF record in BUF as offsets (rule R86), field after field from the
header byte at `p`. The statements name a record's fields by it; the meanings do not use it. -/

namespace Sys2Proof.Machine

/-- The unpacked header of the record at `p` (rules R87, R130). -/
def recHeaderAt (m : Memory) (p : Nat) : RecHdr := unpackHeader (m.read p)

/-- The type length: one byte at `p + 1` (rule R133). -/
def recTypeLenAt (m : Memory) (p : Nat) : Byte := m.read (p + 1)

/-- The offset after the payload length, which has 1 byte if SR = 1 and 4 bytes if SR = 0. -/
def recAfterPayloadLen (m : Memory) (p : Nat) : Nat :=
  p + 2 + if (recHeaderAt m p).sr then 1 else 4

/-- The payload length, big-endian (rules R63, R132). -/
def recPayloadLenAt (m : Memory) (p : Nat) : Word :=
  if (recHeaderAt m p).sr then (m.read (p + 2)).zeroExtend 32 else m.be32 (p + 2)

/-- The id length: one byte if IL = 1, else 0 (rule R134). -/
def recIdLenAt (m : Memory) (p : Nat) : Byte :=
  if (recHeaderAt m p).il then m.read (recAfterPayloadLen m p) else 0

/-- The offset of the type. -/
def recTypeOffAt (m : Memory) (p : Nat) : Nat :=
  recAfterPayloadLen m p + if (recHeaderAt m p).il then 1 else 0

/-- The offset of the id. -/
def recIdOffAt (m : Memory) (p : Nat) : Nat := recTypeOffAt m p + (recTypeLenAt m p).toNat

/-- The offset of the payload. -/
def recPayloadOffAt (m : Memory) (p : Nat) : Nat := recIdOffAt m p + (recIdLenAt m p).toNat

/-- The offset after the record. -/
def recNextAt (m : Memory) (p : Nat) : Nat := recPayloadOffAt m p + (recPayloadLenAt m p).toNat

end Sys2Proof.Machine
end

