-- ==== Sys2Proof/Machine/Program.lean ====
section
/-! DEFINITION. Host programs: the syntax of rule R88 and the pseudo-instructions of rule R89, as lists
of accesses. -/

namespace Sys2Proof.Machine

/-- `wr REG, v` (rule R88). -/
def wr (r : Reg) (v : Word) : List Access := [.regWrite r.offset .w32 v]

/-- `rd REG` (rule R88). -/
def rd (r : Reg) : List Access := [.regRead r.offset .w32]

/-- `wb a, b0 b1 ... bk` (rule R88). -/
def wb : Nat → List Byte → List Access
  | _, [] => []
  | a, b :: bs => .bufWrite a b :: wb (a + 1) bs

/-- `rb a` (rule R88). -/
def rb (a : Nat) : List Access := [.bufRead a]

/-- `cmd X` (rule R89). -/
def cmd (i : Instr) : List Access := wr .CMD (encode i)

/-- `load b0 ... bk` (rule R89). -/
def load (bs : List Byte) : List Access := wb 0 bs ++ wr .BUF_LEN (toWord bs.length)

/-- `window off, len` (rule R89). -/
def window (off len : Word) : List Access := wr .MSG_OFF off ++ wr .MSG_LEN len

/-- `parse` (rule R89). -/
def parse : List Access := cmd .locate ++ cmd .recStart

/-- A state that has `prog` as its pending host program. -/
def State.withProgram (s : State) (prog : List Access) : State := s.setPending (prog.map .access)

end Sys2Proof.Machine
end

