-- ==== Sys2Proof/Machine/Source.lean ====
section
/-! DEFINITION. The source's own sequences over byte lists, as the spec quotes them (file 40's and file
41's opening quotations, file 42's contract; conflicts C1, C2 and C4 as resolved), for the
equivalence of rule R15. They share no definition with the block. DEDUCED, unsafe for
those statements only: assumption 15. -/

namespace Sys2Proof.Machine

/-- A TLV entry of the source: `(tag, length, value)` (rule R13). -/
structure SrcEntry where
  tag : Byte
  length : Nat
  value : List Byte
  deriving DecidableEq, Repr

/-- A record of the source (rule R13). -/
structure SrcRecord where
  messageBegin : Bool
  messageEnd : Bool
  chunkFlag : Bool
  shortRecord : Bool
  idLengthPresent : Bool
  typeNameFormat : Nat
  typeField : List Byte
  idField : List Byte
  payload : List Byte
  deriving DecidableEq, Repr

/-- A big-endian number (rule R63). -/
def bigEndian (bs : List Byte) : Nat := bs.foldl (fun acc b => acc * 256 + b.toNat) 0

/-- Take `n` bytes if they remain ("require N bytes remain"). -/
def takeBytes (n : Nat) (bs : List Byte) : Option (List Byte × List Byte) :=
  if bs.length < n then none else some (bs.take n, bs.drop n)

/-- §4.1 steps 4 and 5: the length field and the bytes after it. -/
def srcTlvLength : List Byte → Option (Nat × List Byte)
  | [] => none
  | l :: rest =>
    if l ≠ 0xFF#8 then some (l.toNat, rest)
    else (takeBytes 2 rest).map fun (f, body) => (bigEndian f, body)

/-- §4.1, at most `fuel` entries of the walk over the bytes that remain. -/
def srcTlvFrom : Nat → List Byte → List SrcEntry
  | 0, _ => []
  | _ + 1, [] => []
  | fuel + 1, tag :: rest =>
    if tag = 0xFE#8 then [⟨tag, 0, []⟩]
    else if tag = 0x00#8 then ⟨tag, 0, []⟩ :: srcTlvFrom fuel rest
    else match srcTlvLength rest with
      | none => []
      | some (len, body) =>
        match takeBytes len body with
        | none => []
        | some (value, rest') => ⟨tag, len, value⟩ :: srcTlvFrom fuel rest'

/-- The source's TLV Walker sequence over a buffer: an entry takes at least one byte, so the buffer's
length bounds their number. -/
def srcTlvs (buffer : List Byte) : List SrcEntry := srcTlvFrom buffer.length buffer

/-- §4.4: the payload of the first NDEF Message TLV before a Terminator or the end, or "no message". -/
def srcLocate (buffer : List Byte) : Option (List Byte) :=
  (((srcTlvs buffer).takeWhile (·.tag != 0xFE#8)).find? (·.tag == 0x03#8)).map (·.value)

/-- §4.2 steps 1 to 8: one record and the bytes after it. -/
def srcRecord : List Byte → Option (SrcRecord × List Byte)
  | h :: typeLength :: rest => do
    let short := h &&& 0x10#8 != 0
    let hasId := h &&& 0x08#8 != 0
    let (plen, rest) ← takeBytes (if short then 1 else 4) rest
    let (idLen, rest) ← takeBytes (if hasId then 1 else 0) rest
    let (typeField, rest) ← takeBytes typeLength.toNat rest
    let (idField, rest) ← takeBytes (bigEndian idLen) rest
    let (payload, rest) ← takeBytes (bigEndian plen) rest
    return ({ messageBegin := h &&& 0x80#8 != 0
              messageEnd := h &&& 0x40#8 != 0
              chunkFlag := h &&& 0x20#8 != 0
              shortRecord := short
              idLengthPresent := hasId
              typeNameFormat := (h &&& 0x07#8).toNat
              typeField, idField, payload }, rest)
  | _ => none

/-- §4.2, at most `fuel` records of the bytes that remain. -/
def srcRecordsFrom : Nat → List Byte → List SrcRecord
  | 0, _ => []
  | fuel + 1, bs =>
    match srcRecord bs with
    | none => []
    | some (r, rest) => if r.messageEnd then [r] else r :: srcRecordsFrom fuel rest

/-- The source's Record Parser sequence over a message: a record takes at least one byte. -/
def srcRecords (message : List Byte) : List SrcRecord := srcRecordsFrom message.length message

/-- `n` in `k` bytes, big-endian. -/
def beBytes : Nat → Nat → List Byte
  | 0, _ => []
  | k + 1, n => beBytes k (n / 256) ++ [BitVec.ofNat 8 n]

/-- The header byte of a record (rules R87, R130). -/
def SrcRecord.header (r : SrcRecord) : Byte :=
  BitVec.ofNat 8 (r.messageBegin.toNat * 0x80 + r.messageEnd.toNat * 0x40 + r.chunkFlag.toNat * 0x20 +
    r.shortRecord.toNat * 0x10 + r.idLengthPresent.toNat * 0x08 + r.typeNameFormat)

/-- The image of a record by the layout of rule R86. -/
def SrcRecord.image (r : SrcRecord) : List Byte :=
  [r.header, BitVec.ofNat 8 r.typeField.length] ++
  beBytes (if r.shortRecord then 1 else 4) r.payload.length ++
  (if r.idLengthPresent then [BitVec.ofNat 8 r.idField.length] else []) ++
  r.typeField ++ r.idField ++ r.payload

/-- The field values fit the layout of rule R86: TNF in 3 bits, type and id lengths in one byte, an id
only where IL = 1, the payload length in the field SR chooses. -/
def SrcRecord.fits (r : SrcRecord) : Bool :=
  decide (r.typeNameFormat < 8) && decide (r.typeField.length < 256) &&
  decide (r.idField.length < 256) && (r.idLengthPresent || r.idField.isEmpty) &&
  decide (r.payload.length < if r.shortRecord then 256 else 2 ^ 32)

end Sys2Proof.Machine
end

