-- ==== Sys2Proof/Machine/Walk.lean ====
section
/-! DEFINITION. The sequences the host obtains from the block: commands issued one after another, and
NEXT commands issued until DONE = 1 (rules R15, R90, R223). -/

namespace Sys2Proof.Machine

/-- The commands of a list executed in order, stopping at the first that answers no next state. -/
def runCommands : List Instr → State → Host.Outcome State Fault Refusal
  | [], s => .next s
  | i :: is, s =>
    match exec i s with
    | .next t => runCommands is t
    | .fault f => .fault f
    | .refused r => .refused r

/-- The TLV entry in the result registers, its value taken from BUF (rules R12, R106). -/
def tlvEntryOf (s : State) : SrcEntry where
  tag := s.tlv.tag
  length := s.tlv.len.toNat
  value := s.buf.slice s.tlv.voff.toNat s.tlv.len.toNat

/-- The record in the result registers, its slices taken from BUF (rules R12, R139). -/
def recordOf (s : State) : SrcRecord where
  messageBegin := s.ndef.hdr.mb
  messageEnd := s.ndef.hdr.me
  chunkFlag := s.ndef.hdr.cf
  shortRecord := s.ndef.hdr.sr
  idLengthPresent := s.ndef.hdr.il
  typeNameFormat := s.ndef.hdr.tnf.toNat
  typeField := s.buf.slice s.ndef.typeOff.toNat s.ndef.typeLen.toNat
  idField := s.buf.slice s.ndef.idOff.toNat s.ndef.idLen.toNat
  payload := s.buf.slice s.ndef.payloadOff.toNat s.ndef.payloadLen.toNat

/-- TLV_NEXT issued until TLV_STATUS.DONE = 1, at most `fuel` times: the entries yielded, and the state
after the last. -/
def walkTlv : Nat → State → List SrcEntry × State
  | 0, s => ([], s)
  | fuel + 1, s =>
    if s.tlv.status.done then ([], s)
    else match exec .tlvNext s with
      | .next t =>
        let w := walkTlv fuel t
        (if t.tlv.status.valid then tlvEntryOf t :: w.1 else w.1, w.2)
      | _ => ([], s)

/-- REC_NEXT issued until REC_STATUS.DONE = 1, at most `fuel` times: the records yielded, and the state
after the last. -/
def walkRec : Nat → State → List SrcRecord × State
  | 0, s => ([], s)
  | fuel + 1, s =>
    if s.ndef.status.done then ([], s)
    else match exec .recNext s with
      | .next t =>
        let w := walkRec fuel t
        (if t.ndef.status.valid then recordOf t :: w.1 else w.1, w.2)
      | _ => ([], s)

end Sys2Proof.Machine
end

