-- ==== Sys2Proof/Safety.lean ====
section
/-! DEFINITION. The invariants the spec states of the registers (rules R24, R26 to R49, R62, R202,
R203), and two states that agree on what a walk reads. -/

namespace Sys2Proof.Machine

/-- The TLV walker's invariants; `size` is BUF_SIZE. -/
structure TlvRegs.Inv (size : Nat) (r : TlvRegs) : Prop where
  /-- R27. -/
  cur_le_lim : r.cur.toNat ≤ r.lim.toNat
  /-- R28, R62. -/
  lim_le_size : r.lim.toNat ≤ size
  /-- R26: `DONE = 0` implies `END_CAUSE = 0`; `DONE = 1` implies `END_CAUSE != 0`. -/
  done_iff_cause : r.status.done = true ↔ r.status.endCause ≠ .none
  /-- R26, R109: a yielded entry has ended the walk exactly when it is the Terminator. -/
  valid_done_iff_terminator : r.status.valid = true → (r.status.done = true ↔ r.tag = 0xFE#8)
  /-- R26: VALID and DONE together have END_CAUSE = TERMINATOR. -/
  valid_done_cause : r.status.valid = true → r.status.done = true → r.status.endCause = .terminator
  /-- R202: after IDLE no walk has been started since reset. -/
  idle_is_reset : r.status.endCause = .idle → r = TlvRegs.reset
  /-- R202: TLV_CUR after EOB_TAG. -/
  eobTag_at_lim : r.status.endCause = .eobTag → r.cur = r.lim
  /-- R29 to R32, R103: no entry, no result. -/
  no_result : r.status.valid = false →
    r.tag = 0 ∧ r.len = 0 ∧ r.toff = 0 ∧ r.voff = 0 ∧ r.status.lfmt = .none
  /-- R32, R106: the yielded value ends at the cursor. -/
  value_ends_at_cur : r.status.valid = true → r.voff.toNat + r.len.toNat = r.cur.toNat
  /-- R26, R85, R102: the length form of the yielded entry is that of its tag and its offsets. -/
  form : r.status.valid = true →
    match r.status.lfmt with
    | .none => (r.tag = 0x00#8 ∨ r.tag = 0xFE#8) ∧ r.len = 0 ∧ r.voff.toNat = r.toff.toNat + 1
    | .short => r.tag ≠ 0x00#8 ∧ r.tag ≠ 0xFE#8 ∧ r.len.toNat ≤ 254 ∧ r.voff.toNat = r.toff.toNat + 2
    | .extended => r.tag ≠ 0x00#8 ∧ r.tag ≠ 0xFE#8 ∧ r.voff.toNat = r.toff.toNat + 4
  /-- R33: each yield advances the cursor, so the count never wraps. -/
  count_le_cur : r.count.toNat ≤ r.cur.toNat

/-- The message locator's invariants (rule R34). -/
structure MsgRegs.Inv (r : MsgRegs) : Prop where
  not_ran : r.status.ran = false → r.status.found = false ∧ r.status.nfCause = .none
  found_no_cause : r.status.found = true → r.status.nfCause = .none
  not_found_cause : r.status.ran = true → r.status.found = false →
    r.status.nfCause ≠ .none ∧ r.status.nfCause ≠ .idle

/-- The record parser's invariants; `size` is BUF_SIZE. -/
structure RecRegs.Inv (size : Nat) (r : RecRegs) : Prop where
  /-- R38. -/
  base_le_cur : r.base.toNat ≤ r.cur.toNat
  /-- R38. -/
  cur_le_end : r.cur.toNat ≤ r.endOff.toNat
  /-- R39, R62. -/
  end_le_size : r.endOff.toNat ≤ size
  /-- R37: `DONE = 0` implies `END_CAUSE = 0`; `DONE = 1` implies `END_CAUSE != 0`. -/
  done_iff_cause : r.status.done = true ↔ r.status.endCause ≠ .none
  /-- R37: a yielded record has ended the walk exactly when ME = 1. -/
  valid_done_iff_me : r.status.valid = true → (r.status.done = true ↔ r.hdr.me = true)
  /-- R37: VALID and DONE together have END_CAUSE = MESSAGE_END. -/
  valid_done_cause : r.status.valid = true → r.status.done = true → r.status.endCause = .messageEnd
  /-- R203: after IDLE no walk has been started since reset. -/
  idle_is_reset : r.status.endCause = .idle → r = RecRegs.reset
  /-- R203: REC_CUR after EXHAUSTED. -/
  exhausted_at_end : r.status.endCause = .exhausted → r.cur = r.endOff
  /-- R203: exactly one byte remains. -/
  truncHeader_one_left : r.status.endCause = .truncHeader → r.cur.toNat + 1 = r.endOff.toNat
  /-- R40, R130: the unpacked fields are those of RAW. -/
  hdr_unpacked : r.hdr = unpackHeader r.hdr.raw
  /-- R40 to R47, R136: no record, no result. -/
  no_result : r.status.valid = false →
    r.hdr = RecHdr.zero ∧ r.typeLen = 0 ∧ r.idLen = 0 ∧ r.payloadLen = 0 ∧
    r.roff = 0 ∧ r.typeOff = 0 ∧ r.idOff = 0 ∧ r.payloadOff = 0
  /-- R45, R86: the type follows the length fields. -/
  type_follows_lengths : r.status.valid = true →
    r.typeOff.toNat = r.roff.toNat + 2 + (if r.hdr.sr then 1 else 4) + (if r.hdr.il then 1 else 0)
  /-- R46. -/
  id_follows_type : r.status.valid = true → r.idOff.toNat = r.typeOff.toNat + r.typeLen.toNat
  /-- R47, R86. -/
  payload_follows_id : r.status.valid = true → r.payloadOff.toNat = r.idOff.toNat + r.idLen.toNat
  /-- R47, R139: the payload ends at the cursor. -/
  payload_ends_at_cur : r.status.valid = true →
    r.payloadOff.toNat + r.payloadLen.toNat = r.cur.toNat
  /-- R42. -/
  no_id_length : r.status.valid = true → r.hdr.il = false → r.idLen = 0
  /-- R43. -/
  short_payload : r.status.valid = true → r.hdr.sr = true → r.payloadLen.toNat ≤ 255
  /-- R48, R148: each yield advances the cursor by at least 3, so the count never wraps. -/
  count_le : r.base.toNat + 3 * r.count.toNat ≤ r.cur.toNat

/-- The machine's invariant. -/
structure State.Inv (s : State) : Prop where
  /-- R6: `1 <= BUF_SIZE`. -/
  size_pos : 1 ≤ s.cfgBufSize.toNat
  /-- BUF is in its canonical form. -/
  buf_wf : s.buf.wf = true
  /-- R68, R188: no byte is held outside BUF. -/
  buf_inside : ∀ c ∈ s.buf.cells, c.1 < s.cfgBufSize.toNat
  /-- R24: legal values `0..BUF_SIZE`. -/
  bufLen_le_size : s.bufLen.toNat ≤ s.cfgBufSize.toNat
  tlv : s.tlv.Inv s.cfgBufSize.toNat
  msg : s.msg.Inv
  ndef : s.ndef.Inv s.cfgBufSize.toNat

/-- The value a register has after a reset (rules R21, R220); `size` is BUF_SIZE. -/
def Reg.resetValue (size : Word) : Reg → Word
  | .TLV_STATUS => 0x00000012
  | .REC_STATUS => 0x00000012
  | .CFG_BUF_SIZE => size
  | .CMD | .GSTATUS | .BUF_LEN
  | .TLV_CUR | .TLV_LIM | .TLV_TAG | .TLV_LEN | .TLV_TOFF | .TLV_VOFF | .TLV_COUNT
  | .MSG_STATUS | .MSG_OFF | .MSG_LEN
  | .REC_CUR | .REC_END | .REC_HDR | .REC_TYPE_LEN | .REC_ID_LEN | .REC_PAYLOAD_LEN
  | .REC_ROFF | .REC_TYPE_OFF | .REC_ID_OFF | .REC_PAYLOAD_OFF | .REC_COUNT | .REC_BASE => 0

/-- The next input is a host write of `w` to CMD. -/
def State.WritesCmd (s : State) (w : Word) (rest : List Input) : Prop :=
  s.host.pending = .access (.regWrite 0x00 .w32 w) :: rest

/-- The state after a TLV_NEXT that ends the walk with cause `c`, field by field (rules R103, R107). -/
def State.tlvEnded (s : State) (c : TlvCause) : State :=
  { s with
    cmdErr := false
    tlv := { status := ⟨false, true, .none, c⟩, cur := s.tlv.cur, lim := s.tlv.lim, tag := 0,
             len := 0, toff := 0, voff := 0, count := s.tlv.count } }

/-- The state after a TLV_NEXT that yields the frame of `tag` at the cursor whose value has `len` bytes
and starts `head` bytes after the tag, field by field (rule R106); `done` and `cause` as given. -/
def State.tlvYielded (s : State) (tag : Byte) (head len : Nat) (fmt : LenForm) (done : Bool)
    (cause : TlvCause) : State :=
  { s with
    cmdErr := false
    tlv := { status := ⟨true, done, fmt, cause⟩, cur := toWord (s.tlv.cur.toNat + head + len)
             lim := s.tlv.lim, tag := tag, len := BitVec.ofNat 16 len, toff := s.tlv.cur
             voff := toWord (s.tlv.cur.toNat + head), count := s.tlv.count + 1 } }

/-- The state after a REC_NEXT that ends the walk with cause `c`, field by field (rules R136, R140). -/
def State.recEnded (s : State) (c : RecCause) : State :=
  { s with
    cmdErr := false
    ndef := { status := ⟨false, true, c⟩, cur := s.ndef.cur, endOff := s.ndef.endOff
              hdr := ⟨0, false, false, false, false, false, 0⟩, typeLen := 0, idLen := 0
              payloadLen := 0, roff := 0, typeOff := 0, idOff := 0, payloadOff := 0
              count := s.ndef.count, base := s.ndef.base } }

/-- Two memories hold the same bytes at the offsets `lo .. hi - 1`. -/
def Memory.AgreeOn (m m' : Memory) (lo hi : Nat) : Prop :=
  ∀ a, lo ≤ a → a < hi → m.read a = m'.read a

/-- BUF holds the bytes `image` from offset `off` on. -/
def Memory.Holds (m : Memory) (off : Nat) (image : List Byte) : Prop :=
  m.slice off image.length = image

end Sys2Proof.Machine
end

