-- ==== Sys2Proof/Certificates/Slice0/Obligations.lean ====
section
/-! DEFINITION. The statements about the machine, for the provers. -/

open Sys2Proof Sys2Proof.Machine

/-! ### The encoding -/

/-- R83: the seven command words, written out from the table's column "word". -/
def Obligations.CommandWordsDecode : Prop :=
  decode 0x00000000#32 = .ok .nop ∧ decode 0x00000001#32 = .ok .tlvStart ∧
  decode 0x00000002#32 = .ok .tlvNext ∧ decode 0x00000003#32 = .ok .recStart ∧
  decode 0x00000004#32 = .ok .recNext ∧ decode 0x00000005#32 = .ok .locate ∧
  decode 0x00000006#32 = .ok .softReset ∧ decode 0x00000102#32 = .error .reservedBitsSet ∧
  decode 0x00000007#32 = .error .opcodeUnassigned

/-- R80, R83: decoding the word of a command gives the command, and a word that decodes is that
command's word. -/
def Obligations.DecodeEncodeAgree : Prop :=
  (∀ i : Instr, i.wf = true → decode (encode i) = .ok i) ∧
  (∀ (w : Word) (i : Instr), decode w = .ok i → w = encode i)

/-- R84: "Every word not in rule R83 is illegal: OP in `0x07..0xFF` with any RSV, and any OP with
`RSV != 0`", in exactly those words, and by the decoder's own names. -/
def Obligations.IllegalWordsByField : Prop :=
  ∀ w : Word,
    (cmdRsv w ≠ 0#24 → decode w = .error .reservedBitsSet) ∧
    (cmdRsv w = 0#24 → 7 ≤ (cmdOp w).toNat → decode w = .error .opcodeUnassigned) ∧
    (cmdRsv w = 0#24 → (cmdOp w).toNat < 7 → ∃ i, decode w = .ok i ∧ opcodeOf i = cmdOp w)

/-! ### The step -/

/-- A step runs the decoded command: when the next input writes to CMD a word that decodes to `i`, the
step is `exec i` with that input taken; and a word placed by `withFetchWord` is run at `s` itself. -/
def Obligations.StepRunsDecodedCommand : Prop :=
  ∀ (s : State) (rest : List Input) (w : Word) (i : Instr), decode w = .ok i →
    (s.WritesCmd w rest → step s = exec i (s.setPending rest)) ∧
    step (s.withFetchWord 32 w.toNat) = exec i s

/-- R80: a word equal to the word of a row runs that row's command; any other word is an illegal
command, which sets CMD_ERR and changes nothing else (R183). -/
def Obligations.CmdWriteExecutesItsRow : Prop :=
  ∀ (s : State) (rest : List Input) (w : Word), s.WritesCmd w rest →
    (∀ i, w = encode i → step s = exec i (s.setPending rest)) ∧
    ((∀ i, w ≠ encode i) → step s = .next { s.setPending rest with cmdErr := true })

/-- R183, R84: OP in `0x07..0xFF` or RSV not 0: only CMD_ERR changes. -/
def Obligations.IllegalCommandSetsOnlyCmdErr : Prop :=
  ∀ (s : State) (rest : List Input) (w : Word), s.WritesCmd w rest →
    7 ≤ (cmdOp w).toNat ∨ cmdRsv w ≠ 0#24 →
    step s = .next { s.setPending rest with cmdErr := true }

/-- R221: with no input the block is idle. That an idle step leaves the state is the model's reading
(assumption 5). -/
def Obligations.IdleStepChangesNothing : Prop :=
  ∀ s : State, s.host.pending = [] → step s = .next s

/-- R200, R177: no step faults, and a step is refused only for a register access that rule R187
refuses. -/
def Obligations.OnlyRefusedAccessesStop : Prop :=
  ∀ s : State, (∃ t, step s = .next t) ∨
    (step s = .refused .registerAccessRefused ∧
      ∃ a rest, s.host.pending = .access a :: rest ∧ a.legal = false)

/-! ### Host accesses -/

/-- R184, R21: the register map row by row, each register's offset as a numeral and the field of the state
that a read there returns (R22 to R49; a field narrower than 32 bits zero-extended, a status register as
the sum of its fields). A read returns that value and has no other effect; a bit that a register does not
define reads 0. -/
def Obligations.RegisterReadReturnsValue : Prop :=
  ∀ (s : State) (r : Reg) (rest : List Input),
    let row : Nat × Word :=
      match r with
      | .CMD => (0x00, 0)
      | .GSTATUS => (0x04, toWord s.cmdErr.toNat)
      | .BUF_LEN => (0x08, s.bufLen)
      | .CFG_BUF_SIZE => (0x0C, s.cfgBufSize)
      | .TLV_STATUS => (0x10, toWord (s.tlv.status.valid.toNat + s.tlv.status.done.toNat * 2 +
          s.tlv.status.lfmt.code.toNat * 4 + s.tlv.status.endCause.code.toNat * 16))
      | .TLV_CUR => (0x14, s.tlv.cur)
      | .TLV_LIM => (0x18, s.tlv.lim)
      | .TLV_TAG => (0x1C, toWord s.tlv.tag.toNat)
      | .TLV_LEN => (0x20, toWord s.tlv.len.toNat)
      | .TLV_TOFF => (0x24, s.tlv.toff)
      | .TLV_VOFF => (0x28, s.tlv.voff)
      | .TLV_COUNT => (0x2C, s.tlv.count)
      | .MSG_STATUS => (0x30, toWord (s.msg.status.found.toNat + s.msg.status.ran.toNat * 2 +
          s.msg.status.nfCause.code.toNat * 16))
      | .MSG_OFF => (0x34, s.msg.off)
      | .MSG_LEN => (0x38, s.msg.len)
      | .REC_STATUS => (0x40, toWord (s.ndef.status.valid.toNat + s.ndef.status.done.toNat * 2 +
          s.ndef.status.endCause.code.toNat * 16))
      | .REC_CUR => (0x44, s.ndef.cur)
      | .REC_END => (0x48, s.ndef.endOff)
      | .REC_HDR => (0x4C, toWord (s.ndef.hdr.raw.toNat + s.ndef.hdr.mb.toNat * 2 ^ 8 +
          s.ndef.hdr.me.toNat * 2 ^ 9 + s.ndef.hdr.cf.toNat * 2 ^ 10 + s.ndef.hdr.sr.toNat * 2 ^ 11 +
          s.ndef.hdr.il.toNat * 2 ^ 12 + s.ndef.hdr.tnf.toNat * 2 ^ 16))
      | .REC_TYPE_LEN => (0x50, toWord s.ndef.typeLen.toNat)
      | .REC_ID_LEN => (0x54, toWord s.ndef.idLen.toNat)
      | .REC_PAYLOAD_LEN => (0x58, s.ndef.payloadLen)
      | .REC_ROFF => (0x5C, s.ndef.roff)
      | .REC_TYPE_OFF => (0x60, s.ndef.typeOff)
      | .REC_ID_OFF => (0x64, s.ndef.idOff)
      | .REC_PAYLOAD_OFF => (0x68, s.ndef.payloadOff)
      | .REC_COUNT => (0x6C, s.ndef.count)
      | .REC_BASE => (0x70, s.ndef.base)
    r.offset = row.1 ∧ readReg s r = row.2 ∧ row.2 &&& ~~~ r.definedBits = 0 ∧
    (s.host.pending = .access (.regRead row.1 .w32) :: rest →
      step s = .next ((s.setPending rest).reply (.word row.2)))

/-- R186: an unmapped aligned offset reads 0 and ignores a write. -/
def Obligations.UnmappedOffsetsReadZero : Prop :=
  ∀ (s : State) (off : Nat) (v : Word) (rest : List Input),
    off % 4 = 0 → off = 0x3C ∨ (0x74 ≤ off ∧ off ≤ 0xFC) →
    (s.host.pending = .access (.regRead off .w32) :: rest →
      step s = .next ((s.setPending rest).reply (.word 0))) ∧
    (s.host.pending = .access (.regWrite off .w32 v) :: rest → step s = .next (s.setPending rest))

/-- R185, R24: a write to CMD executes the command; BUF_LEN stores `min(v, BUF_SIZE)`; MSG_OFF and
MSG_LEN store v; a read-only register ignores the write. -/
def Obligations.RegisterWritesStore : Prop :=
  ∀ (s : State) (r : Reg) (v : Word) (rest : List Input),
    s.host.pending = .access (.regWrite r.offset .w32 v) :: rest →
    match r with
    | .CMD => (∀ i, v = encode i → step s = exec i (s.setPending rest)) ∧
        ((∀ i, v ≠ encode i) → step s = .next { s.setPending rest with cmdErr := true })
    | .BUF_LEN => ∃ n : Word, n.toNat = min v.toNat s.cfgBufSize.toNat ∧
        step s = .next { s.setPending rest with bufLen := n }
    | .MSG_OFF => step s = .next { s.setPending rest with msg := ⟨s.msg.status, v, s.msg.len⟩ }
    | .MSG_LEN => step s = .next { s.setPending rest with msg := ⟨s.msg.status, s.msg.off, v⟩ }
    | _ => step s = .next (s.setPending rest)

/-- R187, R65: a register access that is not a 32-bit access at a multiple of 4 in `0x00..0xFC` is
refused. -/
def Obligations.BadRegisterAccessIsRefused : Prop :=
  ∀ (s : State) (off : Nat) (wd : Width) (v : Word) (rest : List Input),
    wd ≠ .w32 ∨ off % 4 ≠ 0 ∨ 0xFC < off →
    (s.host.pending = .access (.regRead off wd) :: rest →
      step s = .refused .registerAccessRefused) ∧
    (s.host.pending = .access (.regWrite off wd v) :: rest →
      step s = .refused .registerAccessRefused)

/-- R188, R68: a byte write inside BUF stores the byte, changes no other byte and no register; outside
BUF it is ignored. -/
def Obligations.BufWriteStoresOneByte : Prop :=
  ∀ (s : State) (a : Nat) (b : Byte) (rest : List Input),
    s.host.pending = .access (.bufWrite a b) :: rest →
    (a < s.cfgBufSize.toNat → ∃ m : Memory,
      step s = .next { s.setPending rest with buf := m } ∧ m.read a = b ∧
      ∀ k, k ≠ a → m.read k = s.buf.read k) ∧
    (s.cfgBufSize.toNat ≤ a → step s = .next (s.setPending rest))

/-- R189, R68: a byte read returns the stored byte inside BUF and 0x00 outside, with no other effect. -/
def Obligations.BufReadReturnsByte : Prop :=
  ∀ (s : State) (a : Nat) (rest : List Input),
    s.host.pending = .access (.bufRead a) :: rest →
    (a < s.cfgBufSize.toNat →
      step s = .next ((s.setPending rest).reply (.byte (s.buf.read a)))) ∧
    (s.cfgBufSize.toNat ≤ a → step s = .next ((s.setPending rest).reply (.byte 0x00#8)))

/-- R223 steps 1 and 2, R89: `load` places an image that fits BUF at offset 0 and sets BUF_LEN to its
length, and changes nothing else. -/
def Obligations.LoadPlacesImage : Prop :=
  ∀ (s : State) (image : List Byte), image.length ≤ s.cfgBufSize.toNat →
    ∃ m : Memory,
      core.run (image.length + 1) (s.withProgram (load image)) =
        .next { s.setPending [] with buf := m, bufLen := toWord image.length } ∧
      m.Holds 0 image ∧ ∀ a, image.length ≤ a → m.read a = s.buf.read a

/-! ### Reset -/

/-- R220: every register's value after reset, by its name, in `State.reset` and after SOFT_RESET in any
state; reset holds no written BUF byte, SOFT_RESET keeps BUF. -/
def Obligations.ResetValuesOfRegisters : Prop :=
  (∀ r : Reg, readReg State.reset r = r.resetValue Config.bufSize) ∧ State.reset.buf.cells = [] ∧
  (∀ s : State, ∃ t, exec .softReset s = .next t ∧
    (∀ r : Reg, readReg t r = r.resetValue s.cfgBufSize) ∧ t.buf = s.buf)

/-- R220, R222: a hardware reset of any state gives every register its reset value and every BUF byte
the free byte of that reset's draw, whatever BUF held before, until the host writes it. (That a hardware
reset is an input between two accesses, and that each reset is a draw of its own, is the model's choice:
assumption 12.) -/
def Obligations.HardResetDrawsBuf : Prop :=
  ∀ (s : State) (rest : List Input), s.host.pending = .hardReset :: rest →
    ∃ t, step s = .next t ∧ (∀ r : Reg, readReg t r = r.resetValue s.cfgBufSize) ∧
      t.host.pending = rest ∧ t.buf.draw = s.buf.draw + 1 ∧
      (∀ a, t.buf.read a = Config.bufPowerOn (s.buf.draw + 1) a) ∧
      (∀ a k b, k ≠ a → (t.buf.write a b).read k = Config.bufPowerOn (s.buf.draw + 1) k)

/-! ### Control commands -/

/-- R182: each of the seven commands completes and sets `GSTATUS.CMD_ERR <- 0`. -/
def Obligations.LegalCommandsClearCmdErr : Prop :=
  ∀ (i : Instr) (s : State), ∃ t, exec i s = .next t ∧ t.cmdErr = false

/-- R180: NOP clears CMD_ERR; "Nothing else changes". -/
def Obligations.NopClearsOnlyCmdErr : Prop :=
  ∀ s : State, exec .nop s = .next { s with cmdErr := false }

/-- R181: SOFT_RESET: every register takes its reset value, BUF_LEN included, BUF is not changed; both
walks then yield nothing. That the host's side is kept is the model's reading (assumption 13), not R181. -/
def Obligations.SoftResetKeepsBuf : Prop :=
  ∀ s : State, ∃ t, exec .softReset s = .next t ∧
    (∀ r : Reg, readReg t r = r.resetValue s.cfgBufSize) ∧
    (∀ a, t.buf.read a = s.buf.read a) ∧ t.host = s.host ∧ t.cfgBufSize = s.cfgBufSize ∧
    exec .tlvNext t = .next t ∧ exec .recNext t = .next t

/-! ### The TLV walker -/

/-- R104: TLV_START's whole effect, and its corner case of an empty buffer. -/
def Obligations.TlvStartBeginsWalk : Prop :=
  ∀ s : State, ∃ t, exec .tlvStart s = .next t ∧ t =
    { s with
      cmdErr := false
      tlv := { status := ⟨false, false, .none, .none⟩, cur := 0, lim := s.bufLen, tag := 0, len := 0
               toff := 0, voff := 0, count := 0 } } ∧
    (s.bufLen = 0 → exec .tlvNext t = .next (t.tlvEnded .eobTag))

/-- R108: TLV_NEXT when DONE = 1, as after reset. -/
def Obligations.TlvNextAfterEnd : Prop :=
  State.reset.tlv.status = ⟨false, true, .none, .idle⟩ ∧
  ∀ s : State, s.tlv.status.done = true → exec .tlvNext s = .next
    { s with
      cmdErr := false
      tlv := { status := ⟨false, true, .none, s.tlv.status.endCause⟩, cur := s.tlv.cur
               lim := s.tlv.lim, tag := 0, len := 0, toff := 0, voff := 0, count := s.tlv.count } }

/-- R109: the Terminator is yielded and ends the walk; whatever the bytes after it, the next TLV_NEXT
yields nothing. -/
def Obligations.TerminatorYieldsAndEnds : Prop :=
  ∀ s : State, s.tlv.status.done = false → s.tlv.cur.toNat < s.tlv.lim.toNat →
    s.buf.read s.tlv.cur.toNat = 0xFE#8 →
    exec .tlvNext s = .next (s.tlvYielded 0xFE#8 1 0 .none true .terminator) ∧
    ∀ m : Memory, ∃ u, exec .tlvNext ((s.tlvYielded 0xFE#8 1 0 .none true .terminator).setBuf m) =
      .next u ∧ u.tlv.status = ⟨false, true, .none, .terminator⟩ ∧
      u.tlv.cur.toNat = s.tlv.cur.toNat + 1

/-- R110: each Null byte is one entry; no length byte is read. -/
def Obligations.NullYieldsOneEntry : Prop :=
  ∀ s : State, s.tlv.status.done = false → s.tlv.cur.toNat < s.tlv.lim.toNat →
    s.buf.read s.tlv.cur.toNat = 0x00#8 →
    exec .tlvNext s = .next (s.tlvYielded 0x00#8 1 0 .none false s.tlv.status.endCause)

/-- R85, R100, R105, R106: a frame of short or extended form that fits the limit is yielded, with its
decoded length and the offset of its value. -/
def Obligations.FittingFrameIsYielded : Prop :=
  ∀ (s : State) (tag : Byte), s.tlv.status.done = false → tag ≠ 0x00#8 → tag ≠ 0xFE#8 →
    s.buf.read s.tlv.cur.toNat = tag →
    (∀ l : Byte, s.buf.read (s.tlv.cur.toNat + 1) = l → l ≠ 0xFF#8 →
      s.tlv.cur.toNat + 2 + l.toNat ≤ s.tlv.lim.toNat →
      exec .tlvNext s =
        .next (s.tlvYielded tag 2 l.toNat .short false s.tlv.status.endCause)) ∧
    (∀ hi lo : Byte, s.buf.read (s.tlv.cur.toNat + 1) = 0xFF#8 →
      s.buf.read (s.tlv.cur.toNat + 2) = hi → s.buf.read (s.tlv.cur.toNat + 3) = lo →
      s.tlv.cur.toNat + 4 + (hi.toNat * 256 + lo.toNat) ≤ s.tlv.lim.toNat →
      exec .tlvNext s =
        .next (s.tlvYielded tag 4 (hi.toNat * 256 + lo.toNat) .extended false
          s.tlv.status.endCause))

/-- R113, R107: the four truncations, one cause each, with nothing yielded and TLV_CUR kept. -/
def Obligations.TruncatedFramesEndWalk : Prop :=
  ∀ s : State, s.tlv.status.done = false →
    (s.tlv.lim.toNat ≤ s.tlv.cur.toNat → exec .tlvNext s = .next (s.tlvEnded .eobTag)) ∧
    (s.buf.read s.tlv.cur.toNat ≠ 0x00#8 → s.buf.read s.tlv.cur.toNat ≠ 0xFE#8 →
      (s.tlv.cur.toNat + 1 = s.tlv.lim.toNat → exec .tlvNext s = .next (s.tlvEnded .eobLen)) ∧
      (s.tlv.cur.toNat + 1 < s.tlv.lim.toNat → s.tlv.lim.toNat < s.tlv.cur.toNat + 4 →
        s.buf.read (s.tlv.cur.toNat + 1) = 0xFF#8 →
        exec .tlvNext s = .next (s.tlvEnded .eobExtLen)) ∧
      (∀ l : Byte, s.tlv.cur.toNat + 1 < s.tlv.lim.toNat →
        s.buf.read (s.tlv.cur.toNat + 1) = l → l ≠ 0xFF#8 →
        s.tlv.lim.toNat < s.tlv.cur.toNat + 2 + l.toNat →
        exec .tlvNext s = .next (s.tlvEnded .eobValue)) ∧
      (∀ hi lo : Byte, s.tlv.cur.toNat + 4 ≤ s.tlv.lim.toNat →
        s.buf.read (s.tlv.cur.toNat + 1) = 0xFF#8 →
        s.buf.read (s.tlv.cur.toNat + 2) = hi → s.buf.read (s.tlv.cur.toNat + 3) = lo →
        s.tlv.lim.toNat < s.tlv.cur.toNat + 4 + (hi.toNat * 256 + lo.toNat) →
        exec .tlvNext s = .next (s.tlvEnded .eobValue)))

/-- R112: a frame that ends exactly at the limit is yielded and the next TLV_NEXT ends with EOB_TAG; one
byte more ends with EOB_VALUE. Stated of the short form. -/
def Obligations.ExactFitThenEobTag : Prop :=
  ∀ (s : State) (l : Byte), s.tlv.status.done = false →
    s.buf.read s.tlv.cur.toNat ≠ 0x00#8 → s.buf.read s.tlv.cur.toNat ≠ 0xFE#8 →
    s.buf.read (s.tlv.cur.toNat + 1) = l → l ≠ 0xFF#8 →
    (s.tlv.cur.toNat + 2 + l.toNat = s.tlv.lim.toNat →
      ∃ t u, exec .tlvNext s = .next t ∧ t.tlv.status.valid = true ∧ t.tlv.cur = s.tlv.lim ∧
        exec .tlvNext t = .next u ∧ u.tlv.status.valid = false ∧ u.tlv.status.done = true ∧
        u.tlv.status.endCause = .eobTag) ∧
    (s.tlv.cur.toNat + 1 < s.tlv.lim.toNat → s.tlv.cur.toNat + 2 + l.toNat = s.tlv.lim.toNat + 1 →
      exec .tlvNext s = .next (s.tlvEnded .eobValue))

/-- R60, R104, R105: TLV_START and TLV_NEXT change only CMD_ERR and the TLV walker's registers. -/
def Obligations.TlvCommandsFrame : Prop :=
  ∀ (i : Instr) (s : State), i = .tlvStart ∨ i = .tlvNext → ∃ t, exec i s = .next t ∧
    (∀ a, t.buf.read a = s.buf.read a) ∧ t.bufLen = s.bufLen ∧ t.cfgBufSize = s.cfgBufSize ∧
    t.msg = s.msg ∧ t.ndef = s.ndef ∧ t.host = s.host ∧
    (i = .tlvNext → t.tlv.lim = s.tlv.lim)

/-- R114, R62: what TLV_NEXT yields and how it leaves the walk depends only on TLV_CUR, TLV_LIM, DONE
and the BUF bytes below TLV_LIM (no byte at or past the limit matters). -/
def Obligations.TlvNextReadsOnlyBelowLimit : Prop :=
  ∀ s s' : State, s.tlv.cur = s'.tlv.cur → s.tlv.lim = s'.tlv.lim →
    s.tlv.status.done = s'.tlv.status.done → s.buf.AgreeOn s'.buf s.tlv.cur.toNat s.tlv.lim.toNat →
    ∃ t t', exec .tlvNext s = .next t ∧ exec .tlvNext s' = .next t' ∧
      t.tlv.cur = t'.tlv.cur ∧ t.tlv.tag = t'.tlv.tag ∧ t.tlv.len = t'.tlv.len ∧
      t.tlv.toff = t'.tlv.toff ∧ t.tlv.voff = t'.tlv.voff ∧
      t.tlv.status.valid = t'.tlv.status.valid ∧ t.tlv.status.done = t'.tlv.status.done ∧
      t.tlv.status.lfmt = t'.tlv.status.lfmt ∧
      (s.tlv.status.endCause = s'.tlv.status.endCause →
        t.tlv.status.endCause = t'.tlv.status.endCause)

/-- R115: from any state, TLV_START and then at most `TLV_LIM + 1` TLV_NEXT commands end the walk, with
TLV_CUR never past TLV_LIM. -/
def Obligations.TlvWalkEnds : Prop :=
  ∀ s : State, (∃ t, runCommands (.tlvStart :: List.replicate (s.bufLen.toNat + 1) .tlvNext) s =
      .next t ∧ t.tlv.status.done = true) ∧
    ∀ k t, runCommands (.tlvStart :: List.replicate k .tlvNext) s = .next t →
      t.tlv.lim = s.bufLen ∧ t.tlv.cur.toNat ≤ t.tlv.lim.toNat

/-! ### The message locator -/

/-- R170, R177: LOCATE is TLV_START and then `k + 1` TLV_NEXT steps, `k <= BUF_LEN`, up to the first that
yields tag 0x03 or ends the walk; it leaves the state of the last of them, with the message registers
written. -/
def Obligations.LocateWalksToFirstMessage : Prop :=
  ∀ s : State, ∃ (k : Nat) (u : State), k ≤ s.bufLen.toNat ∧
    runCommands (.tlvStart :: List.replicate (k + 1) .tlvNext) s = .next u ∧
    (∀ j v, j < k → runCommands (.tlvStart :: List.replicate (j + 1) .tlvNext) s = .next v →
      ¬ (v.tlv.status.valid = true ∧ v.tlv.tag = 0x03#8) ∧ v.tlv.status.done = false) ∧
    ((u.tlv.status.valid = true ∧ u.tlv.tag = 0x03#8 ∧ u.tlv.status.done = false ∧
      exec .locate s = .next
        { u with msg := ⟨⟨true, true, .none⟩, u.tlv.voff, toWord u.tlv.len.toNat⟩ }) ∨
     (¬ (u.tlv.status.valid = true ∧ u.tlv.tag = 0x03#8) ∧ u.tlv.status.done = true ∧
      exec .locate s = .next { u with msg := ⟨⟨false, true, u.tlv.status.endCause⟩, 0, 0⟩ }))

/-- R232, R60: LOCATE does not touch the record walk, BUF, BUF_LEN or CFG_BUF_SIZE. -/
def Obligations.LocateFrame : Prop :=
  ∀ s : State, ∃ t, exec .locate s = .next t ∧ (∀ a, t.buf.read a = s.buf.read a) ∧
    t.bufLen = s.bufLen ∧ t.cfgBufSize = s.cfgBufSize ∧ t.ndef = s.ndef ∧ t.host = s.host ∧
    t.cmdErr = false ∧ t.tlv.lim = s.bufLen

/-- R171, R174: a located message lies inside the buffer; "No message" is FOUND = 0 with MSG_OFF and
MSG_LEN 0, and NF_CAUSE is the walk's END_CAUSE, one of the five that can end a search (R34). -/
def Obligations.LocatedMessageInBuffer : Prop :=
  ∀ s : State, ∃ t, exec .locate s = .next t ∧ t.msg.status.ran = true ∧
    (t.msg.status.found = true → t.msg.off.toNat + t.msg.len.toNat ≤ s.bufLen.toNat ∧
      t.msg.status.nfCause = .none ∧ t.tlv.status.done = false) ∧
    (t.msg.status.found = false → t.msg.off = 0 ∧ t.msg.len = 0 ∧
      t.msg.status.nfCause = t.tlv.status.endCause ∧ t.tlv.status.done = true ∧
      t.msg.status.nfCause ≠ .none ∧ t.msg.status.nfCause ≠ .idle)

/-! ### The record parser -/

/-- R130: the header unpacker, MSB to LSB, with h recovered from its fields. -/
def Obligations.HeaderUnpacksMsbToLsb : Prop :=
  ∀ h : Byte,
    (unpackHeader h).mb = decide (h &&& 0x80#8 ≠ 0) ∧ (unpackHeader h).me = decide (h &&& 0x40#8 ≠ 0) ∧
    (unpackHeader h).cf = decide (h &&& 0x20#8 ≠ 0) ∧ (unpackHeader h).sr = decide (h &&& 0x10#8 ≠ 0) ∧
    (unpackHeader h).il = decide (h &&& 0x08#8 ≠ 0) ∧
    (unpackHeader h).tnf.toNat = (h &&& 0x07#8).toNat ∧
    h.toNat = (unpackHeader h).mb.toNat * 0x80 + (unpackHeader h).me.toNat * 0x40 +
      (unpackHeader h).cf.toNat * 0x20 + (unpackHeader h).sr.toNat * 0x10 +
      (unpackHeader h).il.toNat * 0x08 + (unpackHeader h).tnf.toNat

/-- R137: REC_START's whole effect, with exact arithmetic, and its corner case of an empty window. -/
def Obligations.RecStartSetsWindow : Prop :=
  ∀ s : State, ∃ (e b : Word) (t : State),
    e.toNat = min (s.msg.off.toNat + s.msg.len.toNat) s.bufLen.toNat ∧
    b.toNat = min s.msg.off.toNat e.toNat ∧
    exec .recStart s = .next t ∧ t =
      { s with
        cmdErr := false
        ndef := { status := ⟨false, false, .none⟩, cur := b, endOff := e
                  hdr := ⟨0, false, false, false, false, false, 0⟩, typeLen := 0, idLen := 0
                  payloadLen := 0, roff := 0, typeOff := 0, idOff := 0, payloadOff := 0, count := 0
                  base := b } } ∧
    (b = e → exec .recNext t = .next (t.recEnded .exhausted))

/-- R141: REC_NEXT when DONE = 1. -/
def Obligations.RecNextAfterEnd : Prop :=
  ∀ s : State, s.ndef.status.done = true →
    exec .recNext s = .next (s.recEnded s.ndef.status.endCause)

/-- R138, R139, R86: a record all of whose bytes lie in the window is yielded, its fields and offsets
those of the layout; with ME = 1 the walk ends with MESSAGE_END. -/
def Obligations.FittingRecordIsYielded : Prop :=
  ∀ (s : State) (p : Nat), s.ndef.status.done = false → s.ndef.cur.toNat = p →
    recNextAt s.buf p ≤ s.ndef.endOff.toNat →
    ∃ t : RecRegs, exec .recNext s = .next { s with cmdErr := false, ndef := t } ∧
      t.hdr = unpackHeader (s.buf.read p) ∧ t.typeLen = s.buf.read (p + 1) ∧
      t.idLen = recIdLenAt s.buf p ∧ t.payloadLen = recPayloadLenAt s.buf p ∧
      t.roff.toNat = p ∧ t.typeOff.toNat = recTypeOffAt s.buf p ∧
      t.idOff.toNat = recIdOffAt s.buf p ∧ t.payloadOff.toNat = recPayloadOffAt s.buf p ∧
      t.cur.toNat = recNextAt s.buf p ∧ t.count = s.ndef.count + 1 ∧
      t.endOff = s.ndef.endOff ∧ t.base = s.ndef.base ∧
      t.status = if (s.buf.read p).getLsbD 6 then ⟨true, true, .messageEnd⟩
        else ⟨true, false, s.ndef.status.endCause⟩

/-- R203, R205, R140, R142: the seven stops in their order, each with its cause, nothing yielded and
REC_CUR kept. -/
def Obligations.TruncatedRecordsEndWalk : Prop :=
  ∀ (s : State) (p e : Nat), s.ndef.status.done = false → s.ndef.cur.toNat = p →
    s.ndef.endOff.toNat = e →
    (e = p → exec .recNext s = .next (s.recEnded .exhausted)) ∧
    (e = p + 1 → exec .recNext s = .next (s.recEnded .truncHeader)) ∧
    (p + 2 ≤ e → e < recAfterPayloadLen s.buf p →
      exec .recNext s = .next (s.recEnded .truncPlen)) ∧
    (recAfterPayloadLen s.buf p ≤ e → e < recTypeOffAt s.buf p →
      exec .recNext s = .next (s.recEnded .truncIdLen)) ∧
    (recTypeOffAt s.buf p ≤ e → e < recIdOffAt s.buf p →
      exec .recNext s = .next (s.recEnded .truncType)) ∧
    (recIdOffAt s.buf p ≤ e → e < recPayloadOffAt s.buf p →
      exec .recNext s = .next (s.recEnded .truncId)) ∧
    (recPayloadOffAt s.buf p ≤ e → e < recNextAt s.buf p →
      exec .recNext s = .next (s.recEnded .truncPayload))

/-- R60, R137, R138: REC_START and REC_NEXT change only CMD_ERR and the record parser's registers. -/
def Obligations.RecCommandsFrame : Prop :=
  ∀ (i : Instr) (s : State), i = .recStart ∨ i = .recNext → ∃ t, exec i s = .next t ∧
    (∀ a, t.buf.read a = s.buf.read a) ∧ t.bufLen = s.bufLen ∧ t.cfgBufSize = s.cfgBufSize ∧
    t.msg = s.msg ∧ t.tlv = s.tlv ∧ t.host = s.host ∧
    (i = .recNext → t.ndef.base = s.ndef.base ∧ t.ndef.endOff = s.ndef.endOff)

/-- R62, R147: what REC_NEXT yields and how it leaves the walk depends only on REC_CUR, REC_END,
REC_STATUS.DONE and the BUF bytes in `[REC_CUR, REC_END)`. -/
def Obligations.RecNextReadsOnlyWindow : Prop :=
  ∀ s s' : State, s.ndef.cur = s'.ndef.cur → s.ndef.endOff = s'.ndef.endOff →
    s.ndef.status.done = s'.ndef.status.done →
    s.buf.AgreeOn s'.buf s.ndef.cur.toNat s.ndef.endOff.toNat →
    ∃ t t', exec .recNext s = .next t ∧ exec .recNext s' = .next t' ∧
      t.ndef.cur = t'.ndef.cur ∧ t.ndef.hdr = t'.ndef.hdr ∧ t.ndef.typeLen = t'.ndef.typeLen ∧
      t.ndef.idLen = t'.ndef.idLen ∧ t.ndef.payloadLen = t'.ndef.payloadLen ∧
      t.ndef.roff = t'.ndef.roff ∧ t.ndef.typeOff = t'.ndef.typeOff ∧
      t.ndef.idOff = t'.ndef.idOff ∧ t.ndef.payloadOff = t'.ndef.payloadOff ∧
      t.ndef.status.valid = t'.ndef.status.valid ∧ t.ndef.status.done = t'.ndef.status.done ∧
      (s.ndef.status.endCause = s'.ndef.status.endCause →
        t.ndef.status.endCause = t'.ndef.status.endCause)

/-- R148: from any state, REC_START and then at most `floor((REC_END - REC_BASE) / 3) + 1` REC_NEXT
commands end the walk, with REC_CUR always inside the window. -/
def Obligations.RecWalkEnds : Prop :=
  ∀ s t : State, exec .recStart s = .next t →
    (∃ u, runCommands
        (List.replicate ((t.ndef.endOff.toNat - t.ndef.base.toNat) / 3 + 1) .recNext) t = .next u ∧
      u.ndef.status.done = true) ∧
    ∀ k u, runCommands (List.replicate k .recNext) t = .next u →
      u.ndef.base = t.ndef.base ∧ u.ndef.endOff = t.ndef.endOff ∧
      t.ndef.base.toNat ≤ u.ndef.cur.toNat ∧ u.ndef.cur.toNat ≤ t.ndef.endOff.toNat

/-- R175, R137 corner cases: an empty window yields no record; the walk ends with EXHAUSTED. -/
def Obligations.EmptyWindowYieldsNoRecord : Prop :=
  ∀ s : State, s.msg.len = 0 → ∃ t, runCommands [.recStart, .recNext] s = .next t ∧
    t.ndef.status = ⟨false, true, .exhausted⟩ ∧ t.ndef.count = 0

/-! ### The registers as words -/

/-- R26, R34, R37, R40, R23: where the fields stand in the status and header registers, and the codes of
the length forms (R26) and of the causes (R202, R203) in them. -/
def Obligations.StatusWordLayout : Prop :=
  (LenForm.none.code.toNat = 0 ∧ LenForm.short.code.toNat = 1 ∧ LenForm.extended.code.toNat = 2) ∧
  (TlvCause.none.code.toNat = 0 ∧ TlvCause.idle.code.toNat = 1 ∧ TlvCause.terminator.code.toNat = 2 ∧
    TlvCause.eobTag.code.toNat = 3 ∧ TlvCause.eobLen.code.toNat = 4 ∧
    TlvCause.eobExtLen.code.toNat = 5 ∧ TlvCause.eobValue.code.toNat = 6) ∧
  (RecCause.none.code.toNat = 0 ∧ RecCause.idle.code.toNat = 1 ∧ RecCause.messageEnd.code.toNat = 2 ∧
    RecCause.exhausted.code.toNat = 3 ∧ RecCause.truncHeader.code.toNat = 4 ∧
    RecCause.truncPlen.code.toNat = 5 ∧ RecCause.truncIdLen.code.toNat = 6 ∧
    RecCause.truncType.code.toNat = 7 ∧ RecCause.truncId.code.toNat = 8 ∧
    RecCause.truncPayload.code.toNat = 9) ∧
  ∀ s : State,
    (readReg s .GSTATUS).toNat = s.cmdErr.toNat ∧
    (readReg s .TLV_STATUS).toNat = s.tlv.status.valid.toNat + s.tlv.status.done.toNat * 2 +
      s.tlv.status.lfmt.code.toNat * 4 + s.tlv.status.endCause.code.toNat * 16 ∧
    (readReg s .MSG_STATUS).toNat = s.msg.status.found.toNat + s.msg.status.ran.toNat * 2 +
      s.msg.status.nfCause.code.toNat * 16 ∧
    (readReg s .REC_STATUS).toNat = s.ndef.status.valid.toNat + s.ndef.status.done.toNat * 2 +
      s.ndef.status.endCause.code.toNat * 16 ∧
    (readReg s .REC_HDR).toNat = s.ndef.hdr.raw.toNat + s.ndef.hdr.mb.toNat * 2 ^ 8 +
      s.ndef.hdr.me.toNat * 2 ^ 9 + s.ndef.hdr.cf.toNat * 2 ^ 10 + s.ndef.hdr.sr.toNat * 2 ^ 11 +
      s.ndef.hdr.il.toNat * 2 ^ 12 + s.ndef.hdr.tnf.toNat * 2 ^ 16

/-! ### Whole-machine rules -/

/-- R60, R188: BUF is written by host byte writes and drawn anew by a hardware reset, by nothing else;
no command writes it. -/
def Obligations.OnlyHostWritesBuf : Prop :=
  ∀ (s t : State) (a : Nat), step s = .next t → t.buf.read a ≠ s.buf.read a →
    ∃ rest, s.host.pending = .hardReset :: rest ∨
      s.host.pending = .access (.bufWrite a (t.buf.read a)) :: rest

/-- R23: CMD_ERR tells whether the most recent write to CMD was illegal; it is written only by command
execution and reset. -/
def Obligations.CmdErrTellsLastCmdWrite : Prop :=
  State.reset.cmdErr = false ∧
  ∀ s t : State, step s = .next t →
    (∀ w rest, s.WritesCmd w rest → (t.cmdErr = true ↔ ∀ i, w ≠ encode i)) ∧
    ((∀ w rest, ¬ s.WritesCmd w rest) → (∀ rest, s.host.pending ≠ .hardReset :: rest) →
      t.cmdErr = s.cmdErr)

/-- R28, R39, R49, R231: TLV_LIM changes only in TLV_START, LOCATE or a reset; REC_BASE and REC_END
only in REC_START or a reset. -/
def Obligations.LimitsCapturedAtStart : Prop :=
  ∀ s t : State, step s = .next t →
    (t.tlv.lim ≠ s.tlv.lim → ∃ rest, s.host.pending = .hardReset :: rest ∨
      ∃ i, s.WritesCmd (encode i) rest ∧ (i = .tlvStart ∨ i = .locate ∨ i = .softReset)) ∧
    (t.ndef.base ≠ s.ndef.base ∨ t.ndef.endOff ≠ s.ndef.endOff →
      ∃ rest, s.host.pending = .hardReset :: rest ∨
        ∃ i, s.WritesCmd (encode i) rest ∧ (i = .recStart ∨ i = .softReset))

/-- R34: MSG_STATUS is "Written only by LOCATE ..., reset and SOFT_RESET". -/
def Obligations.MsgStatusOnlyByLocate : Prop :=
  ∀ s t : State, step s = .next t → t.msg.status ≠ s.msg.status →
    ∃ rest, s.host.pending = .hardReset :: rest ∨
      ∃ i, s.WritesCmd (encode i) rest ∧ (i = .locate ∨ i = .softReset)

/-- The machine's invariant (Sys2Proof/Safety.lean) holds right after reset. -/
def Obligations.ResetMeetsInvariant : Prop := State.reset.Inv

/-- Every step from a state that meets the machine's invariant leads to a state that meets it: the
cursors stay inside their limits and the limits inside BUF, BUF keeps its canonical form, the status
fields and the result registers agree as rules R24 to R49, R202 and R203 say, the counters do not wrap. -/
def Obligations.StepKeepsInvariant : Prop :=
  ∀ s t : State, s.Inv → step s = .next t → t.Inv

/-! ### The sequences of the source -/

/-- R15, the TLV Walker: over a buffer image, TLV_START and TLV_NEXT until DONE = 1 yield exactly the
source's sequence. -/
def Obligations.TlvWalkIsSourceSequence : Prop :=
  ∀ (s : State) (image : List Byte), s.buf.Holds 0 image → s.bufLen.toNat = image.length →
    ∃ t, exec .tlvStart s = .next t ∧
      (walkTlv (image.length + 1) t).1 = srcTlvs image ∧
      (walkTlv (image.length + 1) t).2.tlv.status.done = true

/-- R15, the Message Locator: LOCATE finds exactly the source's result. -/
def Obligations.LocateIsSourceResult : Prop :=
  ∀ (s : State) (image : List Byte), s.buf.Holds 0 image → s.bufLen.toNat = image.length →
    ∃ t, exec .locate s = .next t ∧
      match srcLocate image with
      | some payload => t.msg.status.found = true ∧ t.msg.len.toNat = payload.length ∧
          s.buf.Holds t.msg.off.toNat payload
      | none => t.msg.status.found = false ∧ t.msg.off = 0 ∧ t.msg.len = 0

/-- R15, the Record Parser: over a message in the window, REC_START and REC_NEXT until DONE = 1 yield
exactly the source's sequence. -/
def Obligations.RecWalkIsSourceSequence : Prop :=
  ∀ (s : State) (message : List Byte), s.buf.Holds s.msg.off.toNat message →
    s.msg.len.toNat = message.length → s.msg.off.toNat + s.msg.len.toNat ≤ s.bufLen.toNat →
    ∃ t, exec .recStart s = .next t ∧
      (walkRec (message.length + 1) t).1 = srcRecords message ∧
      (walkRec (message.length + 1) t).2.ndef.status.done = true

/-- R116: the walk over a truncated buffer yields a prefix of the walk over the whole. -/
def Obligations.TlvTruncationYieldsPrefix : Prop :=
  ∀ (s : State) (k : Word), k.toNat ≤ s.bufLen.toNat →
    ∃ t u, exec .tlvStart (s.setBufLen k) = .next t ∧ exec .tlvStart s = .next u ∧
      (walkTlv (k.toNat + 1) t).1 <+: (walkTlv (s.bufLen.toNat + 1) u).1

/-- R148: truncating the window (a smaller MSG_LEN) yields a prefix of the records of the whole. -/
def Obligations.RecTruncationYieldsPrefix : Prop :=
  ∀ (s : State) (k : Word), k.toNat ≤ s.msg.len.toNat →
    ∃ t u, exec .recStart (s.setMsg { s.msg with len := k }) = .next t ∧
      exec .recStart s = .next u ∧
      (walkRec (k.toNat + 1) t).1 <+: (walkRec (s.msg.len.toNat + 1) u).1

/-- R149: a record image built by the layout of R86, placed as the whole window, is yielded by one
REC_NEXT with its fields equal to the values it was built from. -/
def Obligations.RecordRoundTrip : Prop :=
  ∀ (s : State) (r : SrcRecord), r.fits = true → s.buf.Holds s.msg.off.toNat r.image →
    s.msg.len.toNat = r.image.length → s.msg.off.toNat + s.msg.len.toNat ≤ s.bufLen.toNat →
    ∃ t, runCommands [.recStart, .recNext] s = .next t ∧ t.ndef.status.valid = true ∧
      recordOf t = r ∧ t.ndef.hdr.raw = r.header ∧ t.ndef.cur = t.ndef.endOff ∧
      t.ndef.status.done = r.messageEnd
end

