-- ==== Sys2Proof/Laws/Encoding.lean ====
section
/-! SUPPORT. The opcode map: no two rows overlap, and decoding by the table is decoding by the word. -/

namespace Sys2Proof

/-- "if w equals the `match` of exactly one row" (rule R80): the rows' words differ. -/
theorem opcodeTable_disjoint : (opcodeTable.map (·.pattern)).Pairwise (· ≠ ·) := by decide

/-- Every row's mask is 0xFFFFFFFF (rule R80). -/
theorem opcodeTable_masks : ∀ r ∈ opcodeTable, r.mask = 0xFFFFFFFF#32 := by decide

theorem hit_full_mask (p w : Word) (i : Instr) :
    (OpcodeRow.mk 0xFFFFFFFF#32 p i).hit w = (w == p) := by
  have h : w &&& 0xFFFFFFFF#32 = w := by
    rw [show (0xFFFFFFFF#32 : Word) = BitVec.allOnes 32 by decide, BitVec.and_allOnes]
  simp [OpcodeRow.hit, h]

/-- The decoder as one test per command word. -/
theorem decode_eq (w : Word) : decode w =
    if w = 0#32 then .ok .nop else if w = 1#32 then .ok .tlvStart else if w = 2#32 then .ok .tlvNext
    else if w = 3#32 then .ok .recStart else if w = 4#32 then .ok .recNext
    else if w = 5#32 then .ok .locate else if w = 6#32 then .ok .softReset
    else if cmdRsv w = 0#24 then .error .opcodeUnassigned else .error .reservedBitsSet := by
  split_ifs with h0 h1 h2 h3 h4 h5 h6 <;> (try subst w) <;> (try rfl)
  all_goals
    have hnone : opcodeTable.find? (·.hit w) = none := by
      simp [opcodeTable, List.find?, hit_full_mask, beq_eq_false_iff_ne.mpr, *]
    simp [decode, *]

end Sys2Proof
end

