-- ==== Sys2Proof/Laws/Memory.lean ====
section
/-! SUPPORT. The laws of BUF: read after write, the canonical form, the draw, the slices. -/

namespace Sys2Proof.Machine

theorem lookupCell_insertCell_same (cs : List Host.Cell) (a : Nat) (b : Byte) :
    lookupCell (insertCell cs a b) a = some b := by
  induction cs with
  | nil => simp [insertCell, lookupCell]
  | cons c rest ih =>
    obtain ⟨k, x⟩ := c
    simp only [insertCell]
    split_ifs with h1 h2
    · simp [lookupCell]
    · simp [lookupCell]
    · simp [lookupCell, ih, Ne.symm h2]

theorem lookupCell_insertCell_other (cs : List Host.Cell) {a k : Nat} (b : Byte) (h : k ≠ a) :
    lookupCell (insertCell cs a b) k = lookupCell cs k := by
  induction cs with
  | nil => simp [insertCell, lookupCell, Ne.symm h]
  | cons c rest ih =>
    obtain ⟨j, x⟩ := c
    simp only [insertCell]
    split_ifs with h1 h2
    · simp [lookupCell, Ne.symm h]
    · subst h2; simp [lookupCell, Ne.symm h]
    · simp [lookupCell, ih]

theorem headAbove_insertCell {cs : List Host.Cell} {k a : Nat} (b : Byte)
    (hc : headAbove k cs = true) (h : k < a) : headAbove k (insertCell cs a b) = true := by
  cases cs with
  | nil => simpa [insertCell, headAbove] using h
  | cons c rest =>
    simp only [insertCell]
    split_ifs <;> simp_all [headAbove]

/-- A write keeps the addresses strictly rising. -/
theorem risingCells_insertCell {cs : List Host.Cell} (a : Nat) (b : Byte)
    (h : risingCells cs = true) : risingCells (insertCell cs a b) = true := by
  induction cs with
  | nil => simp [insertCell, risingCells, headAbove]
  | cons c rest ih =>
    obtain ⟨k, x⟩ := c
    simp only [risingCells, Bool.and_eq_true] at h
    simp only [insertCell]
    split_ifs with h1 h2
    · have hk : headAbove a ((k, x) :: rest) = true := by simpa [headAbove] using h1
      simp [risingCells, hk, h.1, h.2]
    · subst h2; simp [risingCells, h.1, h.2]
    · have hk : k < a := by omega
      simp [risingCells, ih h.2, headAbove_insertCell b h.1 hk]

theorem mem_insertCell {cs : List Host.Cell} {a : Nat} {b : Byte} {c : Host.Cell}
    (h : c ∈ insertCell cs a b) : c = (a, b) ∨ c ∈ cs := by
  induction cs with
  | nil => simpa [insertCell] using h
  | cons d rest ih =>
    simp only [insertCell] at h
    split_ifs at h <;> simp_all <;> tauto

@[simp] theorem Memory.read_write_same (m : Memory) (a : Nat) (b : Byte) :
    (m.write a b).read a = b := by
  simp [Memory.read, Memory.write, lookupCell_insertCell_same]

theorem Memory.read_write_other (m : Memory) {a k : Nat} (b : Byte) (h : k ≠ a) :
    (m.write a b).read k = m.read k := by
  simp [Memory.read, Memory.write, Memory.unlisted, lookupCell_insertCell_other _ _ h]

/-- Everything a write can do to a read. -/
theorem Memory.read_write (m : Memory) (a k : Nat) (b : Byte) :
    (m.write a b).read k = if k = a then b else m.read k := by
  split_ifs with h
  · subst h; simp
  · exact m.read_write_other b h

theorem Memory.wf_write {m : Memory} (a : Nat) (b : Byte) (h : m.wf = true) :
    (m.write a b).wf = true := risingCells_insertCell a b h

@[simp] theorem Memory.wf_redraw (m : Memory) : m.redraw.wf = true := rfl

/-- Reset memory is in its canonical form. -/
theorem Memory.wf_reset : State.reset.buf.wf = true := rfl

@[simp] theorem Memory.redraw_cells (m : Memory) : m.redraw.cells = [] := rfl

/-- After a hardware reset every byte is the new draw's free byte. -/
@[simp] theorem Memory.read_redraw (m : Memory) (a : Nat) :
    m.redraw.read a = Config.bufPowerOn (m.draw + 1) a := rfl

/-- `BE16` as a number: the first byte most significant (rule R63). -/
theorem Memory.be16_toNat (m : Memory) (a : Nat) :
    (m.be16 a).toNat = (m.read a).toNat * 256 + (m.read (a + 1)).toNat := by
  have h : (m.be16 a).toNat = (m.read a).toNat <<< 8 ||| (m.read (a + 1)).toNat :=
    BitVec.toNat_append _ _
  rw [h, Nat.shiftLeft_eq, ← Nat.mul_comm (2 ^ 8),
    Nat.two_pow_add_eq_or_of_lt (m.read (a + 1)).isLt _ |>.symm]

/-- `BE32` as a number: the first byte most significant (rule R63). -/
theorem Memory.be32_toNat (m : Memory) (a : Nat) :
    (m.be32 a).toNat = (((m.read a).toNat * 256 + (m.read (a + 1)).toNat) * 256 +
      (m.read (a + 2)).toNat) * 256 + (m.read (a + 3)).toNat := by
  have h3 : (m.be32 a).toNat =
      (m.read a ++ m.read (a + 1) ++ m.read (a + 2)).toNat <<< 8 ||| (m.read (a + 3)).toNat :=
    BitVec.toNat_append _ _
  have h2 : (m.read a ++ m.read (a + 1) ++ m.read (a + 2)).toNat =
      (m.be16 a).toNat <<< 8 ||| (m.read (a + 2)).toNat := BitVec.toNat_append _ _
  rw [h3, h2, Memory.be16_toNat, Nat.shiftLeft_eq, Nat.shiftLeft_eq,
    ← Nat.mul_comm (2 ^ 8), ← Nat.mul_comm (2 ^ 8),
    Nat.two_pow_add_eq_or_of_lt (m.read (a + 2)).isLt _ |>.symm,
    Nat.two_pow_add_eq_or_of_lt (m.read (a + 3)).isLt _ |>.symm]
  omega

@[simp] theorem Memory.slice_zero (m : Memory) (off : Nat) : m.slice off 0 = [] := rfl

theorem Memory.slice_succ (m : Memory) (off len : Nat) :
    m.slice off (len + 1) = m.read off :: m.slice (off + 1) len := rfl

@[simp] theorem Memory.slice_length (m : Memory) (off len : Nat) : (m.slice off len).length = len := by
  induction len generalizing off with
  | zero => rfl
  | succ n ih => simp [Memory.slice, ih]

theorem Memory.slice_append (m : Memory) (off n k : Nat) :
    m.slice off (n + k) = m.slice off n ++ m.slice (off + n) k := by
  induction n generalizing off with
  | zero => simp
  | succ n ih =>
    rw [show n + 1 + k = (n + k) + 1 by omega, Memory.slice_succ, ih, Memory.slice_succ]
    simp [Nat.add_comm, Nat.add_left_comm]

/-- A slice depends only on the bytes it names. -/
theorem Memory.slice_congr {m m' : Memory} {off len : Nat}
    (h : ∀ a, off ≤ a → a < off + len → m.read a = m'.read a) : m.slice off len = m'.slice off len := by
  induction len generalizing off with
  | zero => rfl
  | succ n ih =>
    rw [Memory.slice_succ, Memory.slice_succ, h off (Nat.le_refl _) (by omega)]
    exact congrArg _ (ih fun a h1 h2 => h a (by omega) (by omega))

end Sys2Proof.Machine
end

