-- ==== Sys2Proof/Laws/Outcomes.lean ====
section
/-! SUPPORT. One lemma per field of each outcome of a TLV step and of a record step. -/

namespace Sys2Proof.Machine

/-! ### TlvRegs.clearResult -/

@[simp] theorem TlvRegs.clearResult_status (r : TlvRegs) :
    r.clearResult.status = { r.status with lfmt := .none } := rfl
@[simp] theorem TlvRegs.clearResult_cur (r : TlvRegs) :
    r.clearResult.cur = r.cur := rfl
@[simp] theorem TlvRegs.clearResult_lim (r : TlvRegs) :
    r.clearResult.lim = r.lim := rfl
@[simp] theorem TlvRegs.clearResult_tag (r : TlvRegs) :
    r.clearResult.tag = 0 := rfl
@[simp] theorem TlvRegs.clearResult_len (r : TlvRegs) :
    r.clearResult.len = 0 := rfl
@[simp] theorem TlvRegs.clearResult_toff (r : TlvRegs) :
    r.clearResult.toff = 0 := rfl
@[simp] theorem TlvRegs.clearResult_voff (r : TlvRegs) :
    r.clearResult.voff = 0 := rfl
@[simp] theorem TlvRegs.clearResult_count (r : TlvRegs) :
    r.clearResult.count = r.count := rfl

/-! ### TlvRegs.start -/

@[simp] theorem TlvRegs.start_status (r : TlvRegs) (lim : Word) :
    (r.start lim).status = ⟨false, false, .none, .none⟩ := rfl
@[simp] theorem TlvRegs.start_cur (r : TlvRegs) (lim : Word) :
    (r.start lim).cur = 0 := rfl
@[simp] theorem TlvRegs.start_lim (r : TlvRegs) (lim : Word) :
    (r.start lim).lim = lim := rfl
@[simp] theorem TlvRegs.start_tag (r : TlvRegs) (lim : Word) :
    (r.start lim).tag = 0 := rfl
@[simp] theorem TlvRegs.start_len (r : TlvRegs) (lim : Word) :
    (r.start lim).len = 0 := rfl
@[simp] theorem TlvRegs.start_toff (r : TlvRegs) (lim : Word) :
    (r.start lim).toff = 0 := rfl
@[simp] theorem TlvRegs.start_voff (r : TlvRegs) (lim : Word) :
    (r.start lim).voff = 0 := rfl
@[simp] theorem TlvRegs.start_count (r : TlvRegs) (lim : Word) :
    (r.start lim).count = 0 := rfl

/-! ### TlvRegs.yield -/

@[simp] theorem TlvRegs.yield_status (r : TlvRegs) (tag : Byte) (toff len voff : Nat) (fmt : LenForm) (next : Nat) :
    (r.yield tag toff len voff fmt next).status = { r.status with lfmt := fmt, valid := true } := rfl
@[simp] theorem TlvRegs.yield_cur (r : TlvRegs) (tag : Byte) (toff len voff : Nat) (fmt : LenForm) (next : Nat) :
    (r.yield tag toff len voff fmt next).cur = toWord next := rfl
@[simp] theorem TlvRegs.yield_lim (r : TlvRegs) (tag : Byte) (toff len voff : Nat) (fmt : LenForm) (next : Nat) :
    (r.yield tag toff len voff fmt next).lim = r.lim := rfl
@[simp] theorem TlvRegs.yield_tag (r : TlvRegs) (tag : Byte) (toff len voff : Nat) (fmt : LenForm) (next : Nat) :
    (r.yield tag toff len voff fmt next).tag = tag := rfl
@[simp] theorem TlvRegs.yield_len (r : TlvRegs) (tag : Byte) (toff len voff : Nat) (fmt : LenForm) (next : Nat) :
    (r.yield tag toff len voff fmt next).len = BitVec.ofNat 16 len := rfl
@[simp] theorem TlvRegs.yield_toff (r : TlvRegs) (tag : Byte) (toff len voff : Nat) (fmt : LenForm) (next : Nat) :
    (r.yield tag toff len voff fmt next).toff = toWord toff := rfl
@[simp] theorem TlvRegs.yield_voff (r : TlvRegs) (tag : Byte) (toff len voff : Nat) (fmt : LenForm) (next : Nat) :
    (r.yield tag toff len voff fmt next).voff = toWord voff := rfl
@[simp] theorem TlvRegs.yield_count (r : TlvRegs) (tag : Byte) (toff len voff : Nat) (fmt : LenForm) (next : Nat) :
    (r.yield tag toff len voff fmt next).count = r.count + 1 := rfl

/-! ### TlvRegs.terminate -/

@[simp] theorem TlvRegs.terminate_status (r : TlvRegs) :
    r.terminate.status = { r.status with done := true, endCause := .terminator } := rfl
@[simp] theorem TlvRegs.terminate_cur (r : TlvRegs) :
    r.terminate.cur = r.cur := rfl
@[simp] theorem TlvRegs.terminate_lim (r : TlvRegs) :
    r.terminate.lim = r.lim := rfl
@[simp] theorem TlvRegs.terminate_tag (r : TlvRegs) :
    r.terminate.tag = r.tag := rfl
@[simp] theorem TlvRegs.terminate_len (r : TlvRegs) :
    r.terminate.len = r.len := rfl
@[simp] theorem TlvRegs.terminate_toff (r : TlvRegs) :
    r.terminate.toff = r.toff := rfl
@[simp] theorem TlvRegs.terminate_voff (r : TlvRegs) :
    r.terminate.voff = r.voff := rfl
@[simp] theorem TlvRegs.terminate_count (r : TlvRegs) :
    r.terminate.count = r.count := rfl

/-! ### TlvRegs.endWith -/

@[simp] theorem TlvRegs.endWith_status (r : TlvRegs) (c : TlvCause) :
    (r.endWith c).status = ⟨false, true, .none, c⟩ := rfl
@[simp] theorem TlvRegs.endWith_cur (r : TlvRegs) (c : TlvCause) :
    (r.endWith c).cur = r.cur := rfl
@[simp] theorem TlvRegs.endWith_lim (r : TlvRegs) (c : TlvCause) :
    (r.endWith c).lim = r.lim := rfl
@[simp] theorem TlvRegs.endWith_tag (r : TlvRegs) (c : TlvCause) :
    (r.endWith c).tag = 0 := rfl
@[simp] theorem TlvRegs.endWith_len (r : TlvRegs) (c : TlvCause) :
    (r.endWith c).len = 0 := rfl
@[simp] theorem TlvRegs.endWith_toff (r : TlvRegs) (c : TlvCause) :
    (r.endWith c).toff = 0 := rfl
@[simp] theorem TlvRegs.endWith_voff (r : TlvRegs) (c : TlvCause) :
    (r.endWith c).voff = 0 := rfl
@[simp] theorem TlvRegs.endWith_count (r : TlvRegs) (c : TlvCause) :
    (r.endWith c).count = r.count := rfl

/-! ### TlvRegs.noYield -/

@[simp] theorem TlvRegs.noYield_status (r : TlvRegs) :
    r.noYield.status = { r.status with valid := false, lfmt := .none } := rfl
@[simp] theorem TlvRegs.noYield_cur (r : TlvRegs) :
    r.noYield.cur = r.cur := rfl
@[simp] theorem TlvRegs.noYield_lim (r : TlvRegs) :
    r.noYield.lim = r.lim := rfl
@[simp] theorem TlvRegs.noYield_tag (r : TlvRegs) :
    r.noYield.tag = 0 := rfl
@[simp] theorem TlvRegs.noYield_len (r : TlvRegs) :
    r.noYield.len = 0 := rfl
@[simp] theorem TlvRegs.noYield_toff (r : TlvRegs) :
    r.noYield.toff = 0 := rfl
@[simp] theorem TlvRegs.noYield_voff (r : TlvRegs) :
    r.noYield.voff = 0 := rfl
@[simp] theorem TlvRegs.noYield_count (r : TlvRegs) :
    r.noYield.count = r.count := rfl

/-! ### RecRegs.clearResult -/

@[simp] theorem RecRegs.clearResult_status (r : RecRegs) :
    r.clearResult.status = r.status := rfl
@[simp] theorem RecRegs.clearResult_cur (r : RecRegs) :
    r.clearResult.cur = r.cur := rfl
@[simp] theorem RecRegs.clearResult_endOff (r : RecRegs) :
    r.clearResult.endOff = r.endOff := rfl
@[simp] theorem RecRegs.clearResult_hdr (r : RecRegs) :
    r.clearResult.hdr = RecHdr.zero := rfl
@[simp] theorem RecRegs.clearResult_typeLen (r : RecRegs) :
    r.clearResult.typeLen = 0 := rfl
@[simp] theorem RecRegs.clearResult_idLen (r : RecRegs) :
    r.clearResult.idLen = 0 := rfl
@[simp] theorem RecRegs.clearResult_payloadLen (r : RecRegs) :
    r.clearResult.payloadLen = 0 := rfl
@[simp] theorem RecRegs.clearResult_roff (r : RecRegs) :
    r.clearResult.roff = 0 := rfl
@[simp] theorem RecRegs.clearResult_typeOff (r : RecRegs) :
    r.clearResult.typeOff = 0 := rfl
@[simp] theorem RecRegs.clearResult_idOff (r : RecRegs) :
    r.clearResult.idOff = 0 := rfl
@[simp] theorem RecRegs.clearResult_payloadOff (r : RecRegs) :
    r.clearResult.payloadOff = 0 := rfl
@[simp] theorem RecRegs.clearResult_count (r : RecRegs) :
    r.clearResult.count = r.count := rfl
@[simp] theorem RecRegs.clearResult_base (r : RecRegs) :
    r.clearResult.base = r.base := rfl

/-! ### RecRegs.start -/

@[simp] theorem RecRegs.start_status (r : RecRegs) (base endOff : Nat) :
    (r.start base endOff).status = ⟨false, false, .none⟩ := rfl
@[simp] theorem RecRegs.start_cur (r : RecRegs) (base endOff : Nat) :
    (r.start base endOff).cur = toWord base := rfl
@[simp] theorem RecRegs.start_endOff (r : RecRegs) (base endOff : Nat) :
    (r.start base endOff).endOff = toWord endOff := rfl
@[simp] theorem RecRegs.start_hdr (r : RecRegs) (base endOff : Nat) :
    (r.start base endOff).hdr = RecHdr.zero := rfl
@[simp] theorem RecRegs.start_typeLen (r : RecRegs) (base endOff : Nat) :
    (r.start base endOff).typeLen = 0 := rfl
@[simp] theorem RecRegs.start_idLen (r : RecRegs) (base endOff : Nat) :
    (r.start base endOff).idLen = 0 := rfl
@[simp] theorem RecRegs.start_payloadLen (r : RecRegs) (base endOff : Nat) :
    (r.start base endOff).payloadLen = 0 := rfl
@[simp] theorem RecRegs.start_roff (r : RecRegs) (base endOff : Nat) :
    (r.start base endOff).roff = 0 := rfl
@[simp] theorem RecRegs.start_typeOff (r : RecRegs) (base endOff : Nat) :
    (r.start base endOff).typeOff = 0 := rfl
@[simp] theorem RecRegs.start_idOff (r : RecRegs) (base endOff : Nat) :
    (r.start base endOff).idOff = 0 := rfl
@[simp] theorem RecRegs.start_payloadOff (r : RecRegs) (base endOff : Nat) :
    (r.start base endOff).payloadOff = 0 := rfl
@[simp] theorem RecRegs.start_count (r : RecRegs) (base endOff : Nat) :
    (r.start base endOff).count = 0 := rfl
@[simp] theorem RecRegs.start_base (r : RecRegs) (base endOff : Nat) :
    (r.start base endOff).base = toWord base := rfl

/-! ### RecRegs.yield -/

@[simp] theorem RecRegs.yield_status (r : RecRegs) (h tl il : Byte) (pl : Word) (roff toff ioff poff next : Nat) :
    (r.yield h tl il pl roff toff ioff poff next).status = { r.status with valid := true } := rfl
@[simp] theorem RecRegs.yield_cur (r : RecRegs) (h tl il : Byte) (pl : Word) (roff toff ioff poff next : Nat) :
    (r.yield h tl il pl roff toff ioff poff next).cur = toWord next := rfl
@[simp] theorem RecRegs.yield_endOff (r : RecRegs) (h tl il : Byte) (pl : Word) (roff toff ioff poff next : Nat) :
    (r.yield h tl il pl roff toff ioff poff next).endOff = r.endOff := rfl
@[simp] theorem RecRegs.yield_hdr (r : RecRegs) (h tl il : Byte) (pl : Word) (roff toff ioff poff next : Nat) :
    (r.yield h tl il pl roff toff ioff poff next).hdr = unpackHeader h := rfl
@[simp] theorem RecRegs.yield_typeLen (r : RecRegs) (h tl il : Byte) (pl : Word) (roff toff ioff poff next : Nat) :
    (r.yield h tl il pl roff toff ioff poff next).typeLen = tl := rfl
@[simp] theorem RecRegs.yield_idLen (r : RecRegs) (h tl il : Byte) (pl : Word) (roff toff ioff poff next : Nat) :
    (r.yield h tl il pl roff toff ioff poff next).idLen = il := rfl
@[simp] theorem RecRegs.yield_payloadLen (r : RecRegs) (h tl il : Byte) (pl : Word) (roff toff ioff poff next : Nat) :
    (r.yield h tl il pl roff toff ioff poff next).payloadLen = pl := rfl
@[simp] theorem RecRegs.yield_roff (r : RecRegs) (h tl il : Byte) (pl : Word) (roff toff ioff poff next : Nat) :
    (r.yield h tl il pl roff toff ioff poff next).roff = toWord roff := rfl
@[simp] theorem RecRegs.yield_typeOff (r : RecRegs) (h tl il : Byte) (pl : Word) (roff toff ioff poff next : Nat) :
    (r.yield h tl il pl roff toff ioff poff next).typeOff = toWord toff := rfl
@[simp] theorem RecRegs.yield_idOff (r : RecRegs) (h tl il : Byte) (pl : Word) (roff toff ioff poff next : Nat) :
    (r.yield h tl il pl roff toff ioff poff next).idOff = toWord ioff := rfl
@[simp] theorem RecRegs.yield_payloadOff (r : RecRegs) (h tl il : Byte) (pl : Word) (roff toff ioff poff next : Nat) :
    (r.yield h tl il pl roff toff ioff poff next).payloadOff = toWord poff := rfl
@[simp] theorem RecRegs.yield_count (r : RecRegs) (h tl il : Byte) (pl : Word) (roff toff ioff poff next : Nat) :
    (r.yield h tl il pl roff toff ioff poff next).count = r.count + 1 := rfl
@[simp] theorem RecRegs.yield_base (r : RecRegs) (h tl il : Byte) (pl : Word) (roff toff ioff poff next : Nat) :
    (r.yield h tl il pl roff toff ioff poff next).base = r.base := rfl

/-! ### RecRegs.finish -/

@[simp] theorem RecRegs.finish_status (r : RecRegs) :
    r.finish.status = { r.status with done := true, endCause := .messageEnd } := rfl
@[simp] theorem RecRegs.finish_cur (r : RecRegs) :
    r.finish.cur = r.cur := rfl
@[simp] theorem RecRegs.finish_endOff (r : RecRegs) :
    r.finish.endOff = r.endOff := rfl
@[simp] theorem RecRegs.finish_hdr (r : RecRegs) :
    r.finish.hdr = r.hdr := rfl
@[simp] theorem RecRegs.finish_typeLen (r : RecRegs) :
    r.finish.typeLen = r.typeLen := rfl
@[simp] theorem RecRegs.finish_idLen (r : RecRegs) :
    r.finish.idLen = r.idLen := rfl
@[simp] theorem RecRegs.finish_payloadLen (r : RecRegs) :
    r.finish.payloadLen = r.payloadLen := rfl
@[simp] theorem RecRegs.finish_roff (r : RecRegs) :
    r.finish.roff = r.roff := rfl
@[simp] theorem RecRegs.finish_typeOff (r : RecRegs) :
    r.finish.typeOff = r.typeOff := rfl
@[simp] theorem RecRegs.finish_idOff (r : RecRegs) :
    r.finish.idOff = r.idOff := rfl
@[simp] theorem RecRegs.finish_payloadOff (r : RecRegs) :
    r.finish.payloadOff = r.payloadOff := rfl
@[simp] theorem RecRegs.finish_count (r : RecRegs) :
    r.finish.count = r.count := rfl
@[simp] theorem RecRegs.finish_base (r : RecRegs) :
    r.finish.base = r.base := rfl

/-! ### RecRegs.endWith -/

@[simp] theorem RecRegs.endWith_status (r : RecRegs) (c : RecCause) :
    (r.endWith c).status = ⟨false, true, c⟩ := rfl
@[simp] theorem RecRegs.endWith_cur (r : RecRegs) (c : RecCause) :
    (r.endWith c).cur = r.cur := rfl
@[simp] theorem RecRegs.endWith_endOff (r : RecRegs) (c : RecCause) :
    (r.endWith c).endOff = r.endOff := rfl
@[simp] theorem RecRegs.endWith_hdr (r : RecRegs) (c : RecCause) :
    (r.endWith c).hdr = RecHdr.zero := rfl
@[simp] theorem RecRegs.endWith_typeLen (r : RecRegs) (c : RecCause) :
    (r.endWith c).typeLen = 0 := rfl
@[simp] theorem RecRegs.endWith_idLen (r : RecRegs) (c : RecCause) :
    (r.endWith c).idLen = 0 := rfl
@[simp] theorem RecRegs.endWith_payloadLen (r : RecRegs) (c : RecCause) :
    (r.endWith c).payloadLen = 0 := rfl
@[simp] theorem RecRegs.endWith_roff (r : RecRegs) (c : RecCause) :
    (r.endWith c).roff = 0 := rfl
@[simp] theorem RecRegs.endWith_typeOff (r : RecRegs) (c : RecCause) :
    (r.endWith c).typeOff = 0 := rfl
@[simp] theorem RecRegs.endWith_idOff (r : RecRegs) (c : RecCause) :
    (r.endWith c).idOff = 0 := rfl
@[simp] theorem RecRegs.endWith_payloadOff (r : RecRegs) (c : RecCause) :
    (r.endWith c).payloadOff = 0 := rfl
@[simp] theorem RecRegs.endWith_count (r : RecRegs) (c : RecCause) :
    (r.endWith c).count = r.count := rfl
@[simp] theorem RecRegs.endWith_base (r : RecRegs) (c : RecCause) :
    (r.endWith c).base = r.base := rfl

/-! ### RecRegs.noYield -/

@[simp] theorem RecRegs.noYield_status (r : RecRegs) :
    r.noYield.status = { r.status with valid := false } := rfl
@[simp] theorem RecRegs.noYield_cur (r : RecRegs) :
    r.noYield.cur = r.cur := rfl
@[simp] theorem RecRegs.noYield_endOff (r : RecRegs) :
    r.noYield.endOff = r.endOff := rfl
@[simp] theorem RecRegs.noYield_hdr (r : RecRegs) :
    r.noYield.hdr = RecHdr.zero := rfl
@[simp] theorem RecRegs.noYield_typeLen (r : RecRegs) :
    r.noYield.typeLen = 0 := rfl
@[simp] theorem RecRegs.noYield_idLen (r : RecRegs) :
    r.noYield.idLen = 0 := rfl
@[simp] theorem RecRegs.noYield_payloadLen (r : RecRegs) :
    r.noYield.payloadLen = 0 := rfl
@[simp] theorem RecRegs.noYield_roff (r : RecRegs) :
    r.noYield.roff = 0 := rfl
@[simp] theorem RecRegs.noYield_typeOff (r : RecRegs) :
    r.noYield.typeOff = 0 := rfl
@[simp] theorem RecRegs.noYield_idOff (r : RecRegs) :
    r.noYield.idOff = 0 := rfl
@[simp] theorem RecRegs.noYield_payloadOff (r : RecRegs) :
    r.noYield.payloadOff = 0 := rfl
@[simp] theorem RecRegs.noYield_count (r : RecRegs) :
    r.noYield.count = r.count := rfl
@[simp] theorem RecRegs.noYield_base (r : RecRegs) :
    r.noYield.base = r.base := rfl

end Sys2Proof.Machine
end

