-- ==== Sys2Proof/Laws/Tlv.lean ====
section
/-! SUPPORT. Everything a TLV step can do, said once: `TlvStep` lists the outcomes of rule R105 with their
guards, and `tlvNextRegs_step` says that every step is one of them. -/

namespace Sys2Proof.Machine

/-- A walk in progress has a tag byte at its cursor that is neither Null nor the Terminator. -/
structure GenericTag (m : Memory) (r : TlvRegs) : Prop where
  running : r.status.done = false
  inside : r.cur.toNat < r.lim.toNat
  not_terminator : m.read r.cur.toNat ≠ 0xFE#8
  not_null : m.read r.cur.toNat ≠ 0x00#8

/-- The outcomes of one TLV_NEXT. -/
inductive TlvStep (m : Memory) (r : TlvRegs) : TlvRegs → Prop
  | ended (h : r.status.done = true) : TlvStep m r r.noYield
  | noTag (h : r.status.done = false) (hp : r.lim.toNat ≤ r.cur.toNat) :
      TlvStep m r (r.endWith .eobTag)
  | terminator (h : r.status.done = false) (hp : r.cur.toNat < r.lim.toNat)
      (ht : m.read r.cur.toNat = 0xFE#8) :
      TlvStep m r
        (r.yield 0xFE#8 r.cur.toNat 0 (r.cur.toNat + 1) .none (r.cur.toNat + 1)).terminate
  | null (h : r.status.done = false) (hp : r.cur.toNat < r.lim.toNat)
      (ht : m.read r.cur.toNat = 0x00#8) :
      TlvStep m r (r.yield 0x00#8 r.cur.toNat 0 (r.cur.toNat + 1) .none (r.cur.toNat + 1))
  | noLength (g : GenericTag m r) (hq : r.lim.toNat ≤ r.cur.toNat + 1) :
      TlvStep m r (r.endWith .eobLen)
  | noExtLength (g : GenericTag m r) (hq : r.cur.toNat + 1 < r.lim.toNat)
      (hl : m.read (r.cur.toNat + 1) = 0xFF#8) (hx : r.lim.toNat < r.cur.toNat + 4) :
      TlvStep m r (r.endWith .eobExtLen)
  | shortPastEnd (g : GenericTag m r) (hl : m.read (r.cur.toNat + 1) ≠ 0xFF#8)
      (hq : r.cur.toNat + 1 < r.lim.toNat)
      (hv : r.lim.toNat < r.cur.toNat + 2 + (m.read (r.cur.toNat + 1)).toNat) :
      TlvStep m r (r.endWith .eobValue)
  | extendedPastEnd (g : GenericTag m r) (hl : m.read (r.cur.toNat + 1) = 0xFF#8)
      (hq : r.cur.toNat + 4 ≤ r.lim.toNat)
      (hv : r.lim.toNat < r.cur.toNat + 4 + (m.be16 (r.cur.toNat + 2)).toNat) :
      TlvStep m r (r.endWith .eobValue)
  | short (g : GenericTag m r) (hl : m.read (r.cur.toNat + 1) ≠ 0xFF#8)
      (hv : r.cur.toNat + 2 + (m.read (r.cur.toNat + 1)).toNat ≤ r.lim.toNat) :
      TlvStep m r
        (r.yield (m.read r.cur.toNat) r.cur.toNat (m.read (r.cur.toNat + 1)).toNat (r.cur.toNat + 2)
          .short (r.cur.toNat + 2 + (m.read (r.cur.toNat + 1)).toNat))
  | extended (g : GenericTag m r) (hl : m.read (r.cur.toNat + 1) = 0xFF#8)
      (hv : r.cur.toNat + 4 + (m.be16 (r.cur.toNat + 2)).toNat ≤ r.lim.toNat) :
      TlvStep m r
        (r.yield (m.read r.cur.toNat) r.cur.toNat (m.be16 (r.cur.toNat + 2)).toNat (r.cur.toNat + 4)
          .extended (r.cur.toNat + 4 + (m.be16 (r.cur.toNat + 2)).toNat))

/-- The length decoder's outcomes (rule R100). -/
theorem decodeTlvLength_cases (m : Memory) (q n : Nat) :
    (n ≤ q ∧ decodeTlvLength m q n = .trunc .eobLen) ∨
    (q < n ∧ m.read q ≠ 0xFF#8 ∧ decodeTlvLength m q n = .ok (m.read q).toNat .short (q + 1)) ∨
    (q < n ∧ m.read q = 0xFF#8 ∧ n < q + 3 ∧ decodeTlvLength m q n = .trunc .eobExtLen) ∨
    (m.read q = 0xFF#8 ∧ q + 3 ≤ n ∧
      decodeTlvLength m q n = .ok (m.be16 (q + 1)).toNat .extended (q + 3)) := by
  unfold decodeTlvLength
  by_cases h1 : n ≤ q
  · simp [h1]
  · by_cases h2 : m.read q = 0xFF#8
    · by_cases h3 : n < q + 3
      · simp [h1, h2, h3]; omega
      · simp [h1, h2, h3]; omega
    · simp [h1, h2]; omega

/-- Every TLV_NEXT is one of the outcomes. -/
theorem tlvNextRegs_step (m : Memory) (r : TlvRegs) : TlvStep m r (tlvNextRegs m r) := by
  unfold tlvNextRegs
  cases hd : r.status.done
  case true => simpa [hd] using TlvStep.ended hd
  by_cases hp : r.lim.toNat ≤ r.cur.toNat
  · simpa [hd, hp] using TlvStep.noTag (m := m) hd hp
  have hp' : r.cur.toNat < r.lim.toNat := by omega
  by_cases hT : m.read r.cur.toNat = 0xFE#8
  · simpa [hd, hp, hT] using TlvStep.terminator hd hp' hT
  by_cases hN : m.read r.cur.toNat = 0x00#8
  · simpa [hd, hp, hN] using TlvStep.null hd hp' hN
  have g : GenericTag m r := ⟨hd, hp', hT, hN⟩
  simp only [hp, hT, hN, if_false, Bool.false_eq_true, tlvGenericFrame]
  rcases decodeTlvLength_cases m (r.cur.toNat + 1) r.lim.toNat with
    ⟨hq, e⟩ | ⟨hq, hl, e⟩ | ⟨hq, hl, hx, e⟩ | ⟨hl, hq, e⟩
  · rw [e]; exact .noLength g hq
  · rw [e]; dsimp only
    split_ifs with hv
    · exact .shortPastEnd g hl hq hv
    · exact .short g hl (by omega)
  · rw [e]; exact .noExtLength g hq hl (by omega)
  · rw [e]; dsimp only
    rw [show r.cur.toNat + 1 + 1 = r.cur.toNat + 2 from rfl,
      show r.cur.toNat + 1 + 3 = r.cur.toNat + 4 from rfl]
    split_ifs with hv
    · exact .extendedPastEnd g hl (by omega) hv
    · exact .extended g hl (by omega)

/-- No TLV step changes the limit (rule R28). -/
@[simp] theorem tlvNextRegs_lim (m : Memory) (r : TlvRegs) : (tlvNextRegs m r).lim = r.lim := by
  have st := tlvNextRegs_step m r
  generalize tlvNextRegs m r = r' at *
  cases st <;> rfl

/-- A TLV step reads only the bytes from the cursor up to the limit (rule R62). -/
theorem tlvNextRegs_congr {m m' : Memory} {r : TlvRegs}
    (ha : ∀ a, r.cur.toNat ≤ a → a < r.lim.toNat → m.read a = m'.read a) :
    tlvNextRegs m r = tlvNextRegs m' r := by
  have r0 := fun h => ha r.cur.toNat (Nat.le_refl _) h
  have r1 := fun h => ha (r.cur.toNat+1) (by omega) h
  have r2 := fun h => ha (r.cur.toNat+2) (by omega) h
  have r3 := fun h => ha (r.cur.toNat+3) (by omega) h
  unfold tlvNextRegs tlvGenericFrame decodeTlvLength Memory.be16
  by_cases h1 : r.lim.toNat ≤ r.cur.toNat
  · simp only [h1, if_true]
  · simp only [h1, if_false]
    rw [r0 (by omega)]
    by_cases h2 : r.lim.toNat ≤ r.cur.toNat + 1
    · simp only [h2, if_true]
    · rw [r1 (by omega)]
      by_cases h3 : r.lim.toNat < r.cur.toNat + 1 + 3
      · simp only [h2, h3, if_true, if_false]
      · rw [show r.cur.toNat + 1 + 1 = r.cur.toNat + 2 from rfl, show r.cur.toNat + 2 + 1 = r.cur.toNat + 3 from rfl]
        rw [r2 (by omega), r3 (by omega)]

end Sys2Proof.Machine
end

