-- ==== Sys2Proof/Laws/Locator.lean ====
section
/-! SUPPORT. The search of LOCATE, said once: it always ends within the bound of rule R177. -/

namespace Sys2Proof.Machine

theorem toNat_toWord {n : Nat} (h : n < 2 ^ 32) : (toWord n).toNat = n :=
  (BitVec.toNat_ofNat n 32).trans (Nat.mod_eq_of_lt h)

/-- A step that neither ends the walk nor was taken after the end moves the cursor forward, inside an
unchanged limit (rules R106, R115). -/
theorem tlvNextRegs_running {m : Memory} {r : TlvRegs} (hrun : (tlvNextRegs m r).status.done = false) :
    r.status.done = false ∧ (tlvNextRegs m r).status.valid = true ∧
    (tlvNextRegs m r).lim = r.lim ∧ r.cur.toNat < (tlvNextRegs m r).cur.toNat ∧
    (tlvNextRegs m r).cur.toNat ≤ r.lim.toNat := by
  have hlim := r.lim.isLt
  have step := tlvNextRegs_step m r
  generalize tlvNextRegs m r = r' at *
  cases step with
  | ended h => simp [h] at hrun
  | noTag => simp at hrun
  | terminator => simp at hrun
  | null h hp =>
    simp only [TlvRegs.yield_status, TlvRegs.yield_lim, TlvRegs.yield_cur, h]
    rw [toNat_toWord (by omega)]
    simp; omega
  | noLength => simp at hrun
  | noExtLength => simp at hrun
  | shortPastEnd => simp at hrun
  | extendedPastEnd => simp at hrun
  | short g hl hv =>
    simp only [TlvRegs.yield_status, TlvRegs.yield_lim, TlvRegs.yield_cur, g.running]
    rw [toNat_toWord (by omega)]
    simp; omega
  | extended g hl hv =>
    simp only [TlvRegs.yield_status, TlvRegs.yield_lim, TlvRegs.yield_cur, g.running]
    rw [toNat_toWord (by omega)]
    simp; omega

/-- The search returns whenever its fuel exceeds the bytes that remain (rules R115, R177). -/
theorem locateLoop_returns (m : Memory) (fuel : Nat) (r : TlvRegs)
    (h : r.lim.toNat - r.cur.toNat < fuel) : ∃ r', locateLoop m fuel r = some r' := by
  induction fuel generalizing r with
  | zero => omega
  | succ n ih =>
    simp only [locateLoop]
    split_ifs with h1 h2
    · exact ⟨_, rfl⟩
    · exact ⟨_, rfl⟩
    · obtain ⟨-, -, hl, hc, hle⟩ := tlvNextRegs_running (m := m) (r := r) (by simpa using h2)
      exact ih _ (by rw [hl]; omega)

/-- The walker registers at the search's return are a match or the walk's end (rule R170). -/
theorem locateLoop_stop {m : Memory} {fuel : Nat} {r r' : TlvRegs}
    (h : locateLoop m fuel r = some r') : r'.atMessage = true ∨ r'.status.done = true := by
  induction fuel generalizing r with
  | zero => simp [locateLoop] at h
  | succ n ih =>
    simp only [locateLoop] at h
    split_ifs at h with h1 h2
    · exact .inl (Option.some.inj h ▸ h1)
    · exact .inr (Option.some.inj h ▸ h2)
    · exact ih h

end Sys2Proof.Machine
end

