-- ==== Sys2Proof/Laws/PerInstr.lean ====
section
/-! SUPPORT. Statements about every command as syntax, one lemma per constructor. -/

namespace Sys2Proof.Laws

/-- The word of a command is a CMD32 word (rule R81): RSV = 0 and OP is the command's opcode, below 7. -/
def CommandWord.Statement (i : Instr) : Prop :=
  cmdRsv (encode i) = 0#24 ∧ cmdOp (encode i) = opcodeOf i ∧ opcodeOf i < 7#8

theorem CommandWord.nop : CommandWord.Statement .nop := by unfold CommandWord.Statement; decide
theorem CommandWord.tlvStart : CommandWord.Statement .tlvStart := by unfold CommandWord.Statement; decide
theorem CommandWord.tlvNext : CommandWord.Statement .tlvNext := by unfold CommandWord.Statement; decide
theorem CommandWord.recStart : CommandWord.Statement .recStart := by unfold CommandWord.Statement; decide
theorem CommandWord.recNext : CommandWord.Statement .recNext := by unfold CommandWord.Statement; decide
theorem CommandWord.locate : CommandWord.Statement .locate := by unfold CommandWord.Statement; decide
theorem CommandWord.softReset : CommandWord.Statement .softReset := by unfold CommandWord.Statement; decide

end Sys2Proof.Laws
end

