-- ==== Sys2Proof/Laws/Record.lean ====
section
/-! SUPPORT. Everything a record step can do, said once: `RecStep` lists the outcomes of rule R138 with
their guards in the layout of rule R86, and `recNextRegs_step` says that every step is one of them. -/

namespace Sys2Proof.Machine

/-- The registers a yield of the record at the cursor leaves, before step 10 (rule R139). -/
def recYieldAt (m : Memory) (r : RecRegs) : RecRegs :=
  r.yield (m.read r.cur.toNat) (recTypeLenAt m r.cur.toNat) (recIdLenAt m r.cur.toNat)
    (recPayloadLenAt m r.cur.toNat) r.cur.toNat (recTypeOffAt m r.cur.toNat)
    (recIdOffAt m r.cur.toNat) (recPayloadOffAt m r.cur.toNat) (recNextAt m r.cur.toNat)

/-- The outcomes of one REC_NEXT. -/
inductive RecStep (m : Memory) (r : RecRegs) : RecRegs → Prop
  | ended (h : r.status.done = true) : RecStep m r r.noYield
  | exhausted (h : r.status.done = false) (hp : r.cur.toNat = r.endOff.toNat) :
      RecStep m r (r.endWith .exhausted)
  | truncHeader (h : r.status.done = false) (hp : r.cur.toNat ≠ r.endOff.toNat)
      (he : r.endOff.toNat < r.cur.toNat + 2) : RecStep m r (r.endWith .truncHeader)
  | truncPlen (h : r.status.done = false) (hp : r.cur.toNat + 2 ≤ r.endOff.toNat)
      (he : r.endOff.toNat < recAfterPayloadLen m r.cur.toNat) : RecStep m r (r.endWith .truncPlen)
  | truncIdLen (h : r.status.done = false)
      (hp : recAfterPayloadLen m r.cur.toNat ≤ r.endOff.toNat)
      (he : r.endOff.toNat < recTypeOffAt m r.cur.toNat) : RecStep m r (r.endWith .truncIdLen)
  | truncType (h : r.status.done = false) (hp : recTypeOffAt m r.cur.toNat ≤ r.endOff.toNat)
      (he : r.endOff.toNat < recIdOffAt m r.cur.toNat) : RecStep m r (r.endWith .truncType)
  | truncId (h : r.status.done = false) (hp : recIdOffAt m r.cur.toNat ≤ r.endOff.toNat)
      (he : r.endOff.toNat < recPayloadOffAt m r.cur.toNat) : RecStep m r (r.endWith .truncId)
  | truncPayload (h : r.status.done = false) (hp : recPayloadOffAt m r.cur.toNat ≤ r.endOff.toNat)
      (he : r.endOff.toNat < recNextAt m r.cur.toNat) : RecStep m r (r.endWith .truncPayload)
  | last (h : r.status.done = false) (he : recNextAt m r.cur.toNat ≤ r.endOff.toNat)
      (hme : (recHeaderAt m r.cur.toNat).me = true) : RecStep m r (recYieldAt m r).finish
  | more (h : r.status.done = false) (he : recNextAt m r.cur.toNat ≤ r.endOff.toNat)
      (hme : (recHeaderAt m r.cur.toNat).me = false) : RecStep m r (recYieldAt m r)

/-- The payload length decoder in the layout of rule R86. -/
theorem decodePayloadLength_eq (m : Memory) (p e : Nat) :
    decodePayloadLength m (p + 2) e (recHeaderAt m p).sr =
      if e < recAfterPayloadLen m p then none
      else some (recPayloadLenAt m p, recAfterPayloadLen m p) := by
  unfold decodePayloadLength recAfterPayloadLen recPayloadLenAt
  cases (recHeaderAt m p).sr <;> simp

/-- The id length decoder in the layout of rule R86, where the payload length fits. -/
theorem decodeIdLength_eq (m : Memory) (p e : Nat) (h : recAfterPayloadLen m p ≤ e) :
    decodeIdLength m (recAfterPayloadLen m p) e (recHeaderAt m p).il =
      if e < recTypeOffAt m p then none else some (recIdLenAt m p, recTypeOffAt m p) := by
  unfold decodeIdLength recTypeOffAt recIdLenAt
  cases (recHeaderAt m p).il <;> simp [Nat.not_lt.mpr h]

/-- The fields of a record follow each other. -/
theorem layout_rises (m : Memory) (p : Nat) :
    p + 3 ≤ recAfterPayloadLen m p ∧ recAfterPayloadLen m p ≤ recTypeOffAt m p ∧
    recTypeOffAt m p ≤ recIdOffAt m p ∧ recIdOffAt m p ≤ recPayloadOffAt m p ∧
    recPayloadOffAt m p ≤ recNextAt m p := by
  refine ⟨?_, Nat.le_add_right _ _, Nat.le_add_right _ _, Nat.le_add_right _ _, Nat.le_add_right _ _⟩
  unfold recAfterPayloadLen
  split <;> omega

/-- Every REC_NEXT is one of the outcomes. -/
theorem recNextRegs_step (m : Memory) (r : RecRegs) : RecStep m r (recNextRegs m r) := by
  unfold recNextRegs
  cases hd : r.status.done
  case true => simpa [hd] using RecStep.ended hd
  by_cases hp : r.cur.toNat = r.endOff.toNat
  · simpa [hd, hp] using RecStep.exhausted (m := m) hd hp
  by_cases he : r.endOff.toNat < r.cur.toNat + 2
  · simpa [hd, hp, he] using RecStep.truncHeader (m := m) hd hp he
  simp only [hp, he, if_false, Bool.false_eq_true, recLengths]
  change RecStep m r (match decodePayloadLength m (r.cur.toNat + 2) r.endOff.toNat
    (recHeaderAt m r.cur.toNat).sr with | none => _ | some (pl, q) => _)
  rw [decodePayloadLength_eq]
  split_ifs with h1
  · exact .truncPlen hd (by omega) h1
  dsimp only
  change RecStep m r (match decodeIdLength m (recAfterPayloadLen m r.cur.toNat) r.endOff.toNat
    (recHeaderAt m r.cur.toNat).il with | none => _ | some (il, q') => _)
  rw [decodeIdLength_eq m _ _ (by omega)]
  split_ifs with h2
  · exact .truncIdLen hd (by omega) h2
  dsimp only [recFields]
  change RecStep m r (if r.endOff.toNat < recIdOffAt m r.cur.toNat then _ else
    if r.endOff.toNat < recPayloadOffAt m r.cur.toNat then _ else
    if r.endOff.toNat < recNextAt m r.cur.toNat then _ else
    if (recHeaderAt m r.cur.toNat).me then (recYieldAt m r).finish else recYieldAt m r)
  split_ifs with h3 h4 h5 h6
  · exact .truncType hd (by omega) h3
  · exact .truncId hd (by omega) h4
  · exact .truncPayload hd (by omega) h5
  · exact .last hd (by omega) h6
  · exact .more hd (by omega) (by simpa using h6)

/-- No record step changes the window (rules R39, R49). -/
@[simp] theorem recNextRegs_base (m : Memory) (r : RecRegs) : (recNextRegs m r).base = r.base := by
  have st := recNextRegs_step m r
  generalize recNextRegs m r = r' at *
  cases st <;> rfl

@[simp] theorem recNextRegs_endOff (m : Memory) (r : RecRegs) :
    (recNextRegs m r).endOff = r.endOff := by
  have st := recNextRegs_step m r
  generalize recNextRegs m r = r' at *
  cases st <;> rfl

/-- The layout of a record depends only on the bytes shown to be inside the window (rule R62). -/
theorem layout_congr {m m' : Memory} {p e : Nat}
    (ha : ∀ a, p ≤ a → a < e → m.read a = m'.read a) :
    (p + 2 ≤ e → recHeaderAt m p = recHeaderAt m' p ∧ recTypeLenAt m p = recTypeLenAt m' p ∧
      recAfterPayloadLen m p = recAfterPayloadLen m' p) ∧
    (recAfterPayloadLen m p ≤ e → recPayloadLenAt m p = recPayloadLenAt m' p ∧
      recTypeOffAt m p = recTypeOffAt m' p) ∧
    (recTypeOffAt m p ≤ e → recIdLenAt m p = recIdLenAt m' p) := by
  have L := layout_rises m p
  have h1 : p + 2 ≤ e → recHeaderAt m p = recHeaderAt m' p ∧ recTypeLenAt m p = recTypeLenAt m' p ∧ recAfterPayloadLen m p = recAfterPayloadLen m' p := by
    intro h
    have a0 := ha p (by omega) (by omega)
    have a1 := ha (p+1) (by omega) (by omega)
    refine ⟨by simp [recHeaderAt, a0], a1, by unfold recAfterPayloadLen recHeaderAt; rw [a0]⟩
  refine ⟨h1, fun h => ?_, fun h => ?_⟩
  · obtain ⟨e1, e2, e3⟩ := h1 (by omega)
    refine ⟨?_, by simp only [recTypeOffAt, e1, e3]⟩
    have a2 := ha (p+2) (by omega) (by omega)
    unfold recPayloadLenAt
    rw [← e1]
    unfold recAfterPayloadLen at h
    split_ifs at h ⊢
    · rw [a2]
    · simp only [Memory.be32]
      rw [a2, ha (p+2+1) (by omega) (by omega), ha (p+2+2) (by omega) (by omega), ha (p+2+3) (by omega) (by omega)]
  · obtain ⟨e1, e2, e3⟩ := h1 (by omega)
    unfold recIdLenAt
    rw [← e1, ← e3]
    unfold recTypeOffAt at h
    split_ifs at h ⊢
    · rw [ha _ (by omega) (by omega)]
    · rfl

/-- A record step reads only the bytes from the cursor up to the window's end (rule R62). -/
theorem recNextRegs_congr {m m' : Memory} {r : RecRegs}
    (ha : ∀ a, r.cur.toNat ≤ a → a < r.endOff.toNat → m.read a = m'.read a) :
    recNextRegs m r = recNextRegs m' r := by
  obtain ⟨h1, h2, h3⟩ := layout_congr ha
  have L := layout_rises m r.cur.toNat
  have L' := layout_rises m' r.cur.toNat
  unfold recNextRegs
  split_ifs with hd hp he
  · rfl
  · rfl
  · rfl
  have a0 := ha r.cur.toNat (by omega) (by omega)
  have a1 := ha (r.cur.toNat+1) (by omega) (by omega)
  obtain ⟨e1, e2, e3⟩ := h1 (by omega)
  unfold recLengths
  rw [← a0, ← a1]
  dsimp only
  change (match decodePayloadLength m (r.cur.toNat + 2) r.endOff.toNat (recHeaderAt m r.cur.toNat).sr with | none => _ | some (pl, q) => _) =
    (match decodePayloadLength m' (r.cur.toNat + 2) r.endOff.toNat (recHeaderAt m r.cur.toNat).sr with | none => _ | some (pl, q) => _)
  rw [decodePayloadLength_eq, e1, decodePayloadLength_eq, ← e3]
  by_cases hq : r.endOff.toNat < recAfterPayloadLen m r.cur.toNat
  · rw [if_pos hq, if_pos hq]
  · rw [if_neg hq, if_neg hq]
    dsimp only
    obtain ⟨e4, e5⟩ := h2 (by omega)
    rw [← e4]
    change (match decodeIdLength m (recAfterPayloadLen m r.cur.toNat) r.endOff.toNat (recHeaderAt m r.cur.toNat).il with | none => _ | some (pl, q) => _) =
    (match decodeIdLength m' (recAfterPayloadLen m r.cur.toNat) r.endOff.toNat (recHeaderAt m r.cur.toNat).il with | none => _ | some (pl, q) => _)
    rw [decodeIdLength_eq _ _ _ (by omega), e3, e1, decodeIdLength_eq _ _ _ (by omega), ← e5]
    by_cases hq2 : r.endOff.toNat < recTypeOffAt m r.cur.toNat
    · rw [if_pos hq2, if_pos hq2]
    · rw [if_neg hq2, if_neg hq2, ← h3 (by omega)]

end Sys2Proof.Machine
end

