-- ==== Sys2Proof/Laws/State.lean ====
section
/-! SUPPORT. One lemma per field per update of State, and the reset of the registers field by field. -/

namespace Sys2Proof.Machine

/-! ### setBuf -/

@[simp] theorem State.setBuf_buf (s : State) (m : Memory) : (s.setBuf m).buf = m := rfl
@[simp] theorem State.setBuf_cfgBufSize (s : State) (m : Memory) : (s.setBuf m).cfgBufSize = s.cfgBufSize := rfl
@[simp] theorem State.setBuf_cmdErr (s : State) (m : Memory) : (s.setBuf m).cmdErr = s.cmdErr := rfl
@[simp] theorem State.setBuf_bufLen (s : State) (m : Memory) : (s.setBuf m).bufLen = s.bufLen := rfl
@[simp] theorem State.setBuf_tlv (s : State) (m : Memory) : (s.setBuf m).tlv = s.tlv := rfl
@[simp] theorem State.setBuf_msg (s : State) (m : Memory) : (s.setBuf m).msg = s.msg := rfl
@[simp] theorem State.setBuf_ndef (s : State) (m : Memory) : (s.setBuf m).ndef = s.ndef := rfl
@[simp] theorem State.setBuf_host (s : State) (m : Memory) : (s.setBuf m).host = s.host := rfl

/-! ### setCmdErr -/

@[simp] theorem State.setCmdErr_buf (s : State) (e : Bool) : (s.setCmdErr e).buf = s.buf := rfl
@[simp] theorem State.setCmdErr_cfgBufSize (s : State) (e : Bool) : (s.setCmdErr e).cfgBufSize = s.cfgBufSize := rfl
@[simp] theorem State.setCmdErr_cmdErr (s : State) (e : Bool) : (s.setCmdErr e).cmdErr = e := rfl
@[simp] theorem State.setCmdErr_bufLen (s : State) (e : Bool) : (s.setCmdErr e).bufLen = s.bufLen := rfl
@[simp] theorem State.setCmdErr_tlv (s : State) (e : Bool) : (s.setCmdErr e).tlv = s.tlv := rfl
@[simp] theorem State.setCmdErr_msg (s : State) (e : Bool) : (s.setCmdErr e).msg = s.msg := rfl
@[simp] theorem State.setCmdErr_ndef (s : State) (e : Bool) : (s.setCmdErr e).ndef = s.ndef := rfl
@[simp] theorem State.setCmdErr_host (s : State) (e : Bool) : (s.setCmdErr e).host = s.host := rfl

/-! ### setBufLen -/

@[simp] theorem State.setBufLen_buf (s : State) (v : Word) : (s.setBufLen v).buf = s.buf := rfl
@[simp] theorem State.setBufLen_cfgBufSize (s : State) (v : Word) : (s.setBufLen v).cfgBufSize = s.cfgBufSize := rfl
@[simp] theorem State.setBufLen_cmdErr (s : State) (v : Word) : (s.setBufLen v).cmdErr = s.cmdErr := rfl
@[simp] theorem State.setBufLen_bufLen (s : State) (v : Word) : (s.setBufLen v).bufLen = v := rfl
@[simp] theorem State.setBufLen_tlv (s : State) (v : Word) : (s.setBufLen v).tlv = s.tlv := rfl
@[simp] theorem State.setBufLen_msg (s : State) (v : Word) : (s.setBufLen v).msg = s.msg := rfl
@[simp] theorem State.setBufLen_ndef (s : State) (v : Word) : (s.setBufLen v).ndef = s.ndef := rfl
@[simp] theorem State.setBufLen_host (s : State) (v : Word) : (s.setBufLen v).host = s.host := rfl

/-! ### setTlv -/

@[simp] theorem State.setTlv_buf (s : State) (r : TlvRegs) : (s.setTlv r).buf = s.buf := rfl
@[simp] theorem State.setTlv_cfgBufSize (s : State) (r : TlvRegs) : (s.setTlv r).cfgBufSize = s.cfgBufSize := rfl
@[simp] theorem State.setTlv_cmdErr (s : State) (r : TlvRegs) : (s.setTlv r).cmdErr = s.cmdErr := rfl
@[simp] theorem State.setTlv_bufLen (s : State) (r : TlvRegs) : (s.setTlv r).bufLen = s.bufLen := rfl
@[simp] theorem State.setTlv_tlv (s : State) (r : TlvRegs) : (s.setTlv r).tlv = r := rfl
@[simp] theorem State.setTlv_msg (s : State) (r : TlvRegs) : (s.setTlv r).msg = s.msg := rfl
@[simp] theorem State.setTlv_ndef (s : State) (r : TlvRegs) : (s.setTlv r).ndef = s.ndef := rfl
@[simp] theorem State.setTlv_host (s : State) (r : TlvRegs) : (s.setTlv r).host = s.host := rfl

/-! ### setMsg -/

@[simp] theorem State.setMsg_buf (s : State) (r : MsgRegs) : (s.setMsg r).buf = s.buf := rfl
@[simp] theorem State.setMsg_cfgBufSize (s : State) (r : MsgRegs) : (s.setMsg r).cfgBufSize = s.cfgBufSize := rfl
@[simp] theorem State.setMsg_cmdErr (s : State) (r : MsgRegs) : (s.setMsg r).cmdErr = s.cmdErr := rfl
@[simp] theorem State.setMsg_bufLen (s : State) (r : MsgRegs) : (s.setMsg r).bufLen = s.bufLen := rfl
@[simp] theorem State.setMsg_tlv (s : State) (r : MsgRegs) : (s.setMsg r).tlv = s.tlv := rfl
@[simp] theorem State.setMsg_msg (s : State) (r : MsgRegs) : (s.setMsg r).msg = r := rfl
@[simp] theorem State.setMsg_ndef (s : State) (r : MsgRegs) : (s.setMsg r).ndef = s.ndef := rfl
@[simp] theorem State.setMsg_host (s : State) (r : MsgRegs) : (s.setMsg r).host = s.host := rfl

/-! ### setNdef -/

@[simp] theorem State.setNdef_buf (s : State) (r : RecRegs) : (s.setNdef r).buf = s.buf := rfl
@[simp] theorem State.setNdef_cfgBufSize (s : State) (r : RecRegs) : (s.setNdef r).cfgBufSize = s.cfgBufSize := rfl
@[simp] theorem State.setNdef_cmdErr (s : State) (r : RecRegs) : (s.setNdef r).cmdErr = s.cmdErr := rfl
@[simp] theorem State.setNdef_bufLen (s : State) (r : RecRegs) : (s.setNdef r).bufLen = s.bufLen := rfl
@[simp] theorem State.setNdef_tlv (s : State) (r : RecRegs) : (s.setNdef r).tlv = s.tlv := rfl
@[simp] theorem State.setNdef_msg (s : State) (r : RecRegs) : (s.setNdef r).msg = s.msg := rfl
@[simp] theorem State.setNdef_ndef (s : State) (r : RecRegs) : (s.setNdef r).ndef = r := rfl
@[simp] theorem State.setNdef_host (s : State) (r : RecRegs) : (s.setNdef r).host = s.host := rfl

/-! ### clearErr -/

@[simp] theorem State.clearErr_buf (s : State) : s.clearErr.buf = s.buf := rfl
@[simp] theorem State.clearErr_cfgBufSize (s : State) : s.clearErr.cfgBufSize = s.cfgBufSize := rfl
@[simp] theorem State.clearErr_cmdErr (s : State) : s.clearErr.cmdErr = false := rfl
@[simp] theorem State.clearErr_bufLen (s : State) : s.clearErr.bufLen = s.bufLen := rfl
@[simp] theorem State.clearErr_tlv (s : State) : s.clearErr.tlv = s.tlv := rfl
@[simp] theorem State.clearErr_msg (s : State) : s.clearErr.msg = s.msg := rfl
@[simp] theorem State.clearErr_ndef (s : State) : s.clearErr.ndef = s.ndef := rfl
@[simp] theorem State.clearErr_host (s : State) : s.clearErr.host = s.host := rfl

/-! ### setPending -/

@[simp] theorem State.setPending_buf (s : State) (p : List Input) : (s.setPending p).buf = s.buf := rfl
@[simp] theorem State.setPending_cfgBufSize (s : State) (p : List Input) : (s.setPending p).cfgBufSize = s.cfgBufSize := rfl
@[simp] theorem State.setPending_cmdErr (s : State) (p : List Input) : (s.setPending p).cmdErr = s.cmdErr := rfl
@[simp] theorem State.setPending_bufLen (s : State) (p : List Input) : (s.setPending p).bufLen = s.bufLen := rfl
@[simp] theorem State.setPending_tlv (s : State) (p : List Input) : (s.setPending p).tlv = s.tlv := rfl
@[simp] theorem State.setPending_msg (s : State) (p : List Input) : (s.setPending p).msg = s.msg := rfl
@[simp] theorem State.setPending_ndef (s : State) (p : List Input) : (s.setPending p).ndef = s.ndef := rfl
@[simp] theorem State.setPending_pending (s : State) (p : List Input) : (s.setPending p).host.pending = p := rfl
@[simp] theorem State.setPending_returned (s : State) (p : List Input) :
    (s.setPending p).host.returned = s.host.returned := rfl

/-! ### reply -/

@[simp] theorem State.reply_buf (s : State) (v : ReadValue) : (s.reply v).buf = s.buf := rfl
@[simp] theorem State.reply_cfgBufSize (s : State) (v : ReadValue) : (s.reply v).cfgBufSize = s.cfgBufSize := rfl
@[simp] theorem State.reply_cmdErr (s : State) (v : ReadValue) : (s.reply v).cmdErr = s.cmdErr := rfl
@[simp] theorem State.reply_bufLen (s : State) (v : ReadValue) : (s.reply v).bufLen = s.bufLen := rfl
@[simp] theorem State.reply_tlv (s : State) (v : ReadValue) : (s.reply v).tlv = s.tlv := rfl
@[simp] theorem State.reply_msg (s : State) (v : ReadValue) : (s.reply v).msg = s.msg := rfl
@[simp] theorem State.reply_ndef (s : State) (v : ReadValue) : (s.reply v).ndef = s.ndef := rfl
@[simp] theorem State.reply_pending (s : State) (v : ReadValue) :
    (s.reply v).host.pending = s.host.pending := rfl
@[simp] theorem State.reply_returned (s : State) (v : ReadValue) :
    (s.reply v).host.returned = s.host.returned ++ [v] := rfl

/-! ### resetRegs and hardReset -/

@[simp] theorem State.resetRegs_buf (s : State) : s.resetRegs.buf = s.buf := rfl
@[simp] theorem State.resetRegs_cfgBufSize (s : State) : s.resetRegs.cfgBufSize = s.cfgBufSize := rfl
@[simp] theorem State.resetRegs_cmdErr (s : State) : s.resetRegs.cmdErr = false := rfl
@[simp] theorem State.resetRegs_bufLen (s : State) : s.resetRegs.bufLen = 0 := rfl
@[simp] theorem State.resetRegs_tlv (s : State) : s.resetRegs.tlv = TlvRegs.reset := rfl
@[simp] theorem State.resetRegs_msg (s : State) : s.resetRegs.msg = MsgRegs.reset := rfl
@[simp] theorem State.resetRegs_ndef (s : State) : s.resetRegs.ndef = RecRegs.reset := rfl
@[simp] theorem State.resetRegs_host (s : State) : s.resetRegs.host = s.host := rfl
@[simp] theorem State.hardReset_buf (s : State) : s.hardReset.buf = s.buf.redraw := rfl
@[simp] theorem State.hardReset_cfgBufSize (s : State) : s.hardReset.cfgBufSize = s.cfgBufSize := rfl
@[simp] theorem State.hardReset_cmdErr (s : State) : s.hardReset.cmdErr = false := rfl
@[simp] theorem State.hardReset_bufLen (s : State) : s.hardReset.bufLen = 0 := rfl
@[simp] theorem State.hardReset_tlv (s : State) : s.hardReset.tlv = TlvRegs.reset := rfl
@[simp] theorem State.hardReset_msg (s : State) : s.hardReset.msg = MsgRegs.reset := rfl
@[simp] theorem State.hardReset_ndef (s : State) : s.hardReset.ndef = RecRegs.reset := rfl
@[simp] theorem State.hardReset_host (s : State) : s.hardReset.host = s.host := rfl

end Sys2Proof.Machine
end

