-- ==== Sys2Proof/Laws/Steps.lean ====
section
/-! SUPPORT. One lemma per meaning and per host access that says once what it can do; the provers cite
these instead of unfolding `exec`, `perform` and `step`. -/

namespace Sys2Proof.Machine

@[simp] theorem exec_nop (s : State) : exec .nop s = .next s.clearErr := rfl

@[simp] theorem exec_softReset (s : State) : exec .softReset s = .next s.resetRegs := rfl

@[simp] theorem exec_tlvStart (s : State) :
    exec .tlvStart s = .next (s.clearErr.setTlv (s.tlv.start s.bufLen)) := rfl

@[simp] theorem exec_tlvNext (s : State) :
    exec .tlvNext s = .next (s.clearErr.setTlv (tlvNextRegs s.buf s.tlv)) := rfl

@[simp] theorem exec_recStart (s : State) :
    exec .recStart s = .next (s.clearErr.setNdef (s.ndef.start (windowBase s) (windowEnd s))) := rfl

@[simp] theorem exec_recNext (s : State) :
    exec .recNext s = .next (s.clearErr.setNdef (recNextRegs s.buf s.ndef)) := rfl

/-- LOCATE's whole effect: the walker registers of its search and the message registers they give. -/
theorem exec_locate (s : State) : ∃ r,
    locateLoop s.buf (s.bufLen.toNat + 1) (s.tlv.start s.bufLen) = some r ∧
    exec .locate s = .next ((s.clearErr.setTlv r).setMsg (locateResult r)) := by
  obtain ⟨r, hr⟩ := locateLoop_returns s.buf (s.bufLen.toNat + 1) (s.tlv.start s.bufLen) (by simp)
  exact ⟨r, hr, by simp [exec, execLocate, hr]⟩

/-- What any command leaves alone: BUF, CFG_BUF_SIZE and the host's side. -/
theorem exec_frame {i : Instr} {s t : State} (h : exec i s = .next t) :
    t.buf = s.buf ∧ t.cfgBufSize = s.cfgBufSize ∧ t.host = s.host := by
  cases i with
  | locate =>
    obtain ⟨r, -, hr⟩ := exec_locate s
    rw [hr] at h; cases h; exact ⟨rfl, rfl, rfl⟩
  | nop | tlvStart | tlvNext | recStart | recNext | softReset => cases h; exact ⟨rfl, rfl, rfl⟩

/-- Every command answers a next state. -/
theorem exec_completes (i : Instr) (s : State) : ∃ t, exec i s = .next t := by
  cases i with
  | locate => obtain ⟨r, -, hr⟩ := exec_locate s; exact ⟨_, hr⟩
  | nop | tlvStart | tlvNext | recStart | recNext | softReset => exact ⟨_, rfl⟩

/-- A write to CMD: a command, or CMD_ERR. -/
theorem writeCmd_cases (s : State) (w : Word) :
    (∃ i, decode w = .ok i ∧ writeCmd s w = exec i s) ∨
    (∃ e, decode w = .error e ∧ writeCmd s w = .next (illegalCommand s)) := by
  unfold writeCmd
  cases h : decode w with
  | ok i => exact .inl ⟨i, rfl, rfl⟩
  | error e => exact .inr ⟨e, rfl, rfl⟩

/-- A register write either ignores its value or changes one of BUF_LEN, MSG_OFF and MSG_LEN. -/
theorem writeReg_cases (s : State) (v : Word) (r : Reg) :
    writeReg s v r = s ∨ writeReg s v r = s.setBufLen (clampLen s v) ∨
    writeReg s v r = s.setMsg { s.msg with off := v } ∨
    writeReg s v r = s.setMsg { s.msg with len := v } := by
  cases r <;> simp [writeReg]

/-- A write in the register space: a CMD write or one register's write. -/
theorem writeOffset_cases (s : State) (off : Nat) (v : Word) :
    writeOffset s off v = writeCmd s v ∨ writeOffset s off v = .next s ∨
    ∃ r, writeOffset s off v = .next (writeReg s v r) := by
  unfold writeOffset
  split
  · exact .inl rfl
  · next r _ _ => exact .inr (.inr ⟨r, rfl⟩)
  · exact .inr (.inl rfl)

/-- BUF_LEN after a host write is at most BUF_SIZE (rule R24). -/
theorem clampLen_le (s : State) (v : Word) : (clampLen s v).toNat ≤ s.cfgBufSize.toNat := by
  unfold clampLen
  split
  · next h => exact h
  · exact Nat.le_refl _

/-- A host write to CMD is the command write of rule R80. -/
theorem step_writeCmd {s : State} {w : Word} {rest : List Input}
    (h : s.host.pending = .access (.regWrite 0x00 .w32 w) :: rest) :
    step s = writeCmd (s.setPending rest) w := by
  unfold step stepPending
  rw [h]; rfl

theorem Reg.offset_of_at? {off : Nat} {r : Reg} (h : Reg.at? off = some r) : r.offset = off := by
  simpa using List.find?_some h

@[simp] theorem Reg.at?_offset (r : Reg) : Reg.at? r.offset = some r := by cases r <;> rfl

/-- Everything a step can do when it answers a next state: the block is idle; a hardware reset; a write
to CMD, which is a command or illegal; any other access, which is a read, a BUF write, or an ignored or
stored register write. -/
theorem step_cases {s t : State} (h : step s = .next t) :
    (s.host.pending = [] ∧ t = s) ∨
    (∃ rest, s.host.pending = .hardReset :: rest ∧ t = (s.setPending rest).hardReset) ∨
    (∃ w rest, s.host.pending = .access (.regWrite 0x00 .w32 w) :: rest ∧
      ((∃ i, decode w = .ok i ∧ exec i (s.setPending rest) = .next t) ∨
       (∃ e, decode w = .error e ∧ t = illegalCommand (s.setPending rest)))) ∨
    (∃ a rest, s.host.pending = .access a :: rest ∧ (∀ w, a ≠ .regWrite 0x00 .w32 w) ∧
      ((∃ v, t = (s.setPending rest).reply v) ∨
       (∃ k b, a = .bufWrite k b ∧ t = hostWriteBuf (s.setPending rest) k b) ∨
       t = s.setPending rest ∨
       ∃ v r, t = writeReg (s.setPending rest) v r)) := by
  have h0 := h
  unfold step stepPending at h
  split at h
  · next hp => exact .inl ⟨hp, by cases h; rfl⟩
  · next a rest hp =>
    by_cases hw : ∃ w, a = .regWrite 0x00 .w32 w
    · obtain ⟨w, rfl⟩ := hw
      refine .inr (.inr (.inl ⟨w, rest, hp, ?_⟩))
      rw [step_writeCmd hp] at h0
      rcases writeCmd_cases (s.setPending rest) w with ⟨i, hd, e'⟩ | ⟨d, hd, e'⟩ <;> rw [e'] at h0
      · exact .inl ⟨i, hd, h0⟩
      · exact .inr ⟨d, hd, by cases h0; rfl⟩
    refine .inr (.inr (.inr ⟨a, rest, hp, fun w hh => hw ⟨w, hh⟩, ?_⟩))
    cases a with
    | regRead off w =>
      simp only [perform] at h
      split at h
      · exact .inl ⟨_, by cases h; rfl⟩
      · cases h
    | regWrite off w v =>
      simp only [perform] at h
      split at h
      · next hl =>
        unfold writeOffset at h
        split at h
        · next hr =>
          have := Reg.offset_of_at? hr
          exfalso; apply hw; refine ⟨v, ?_⟩
          simp [regAccessLegal] at hl
          rw [← this, hl.1.1]; rfl
        · next r _ _ => exact .inr (.inr (.inr ⟨v, r, by cases h; rfl⟩))
        · exact .inr (.inr (.inl (by cases h; rfl)))
      · cases h
    | bufRead a => exact .inl ⟨_, by cases h; rfl⟩
    | bufWrite a b => exact .inr (.inl ⟨a, b, rfl, by cases h; rfl⟩)
  · next rest hp => exact .inr (.inl ⟨rest, hp, by cases h; rfl⟩)

end Sys2Proof.Machine
end

