-- ==== Sys2Proof/Laws/Source.lean ====
section
/-! SUPPORT. The source's sequences over slices of BUF: taking bytes, big-endian numbers, one record, and
one step of a walk. -/

namespace Sys2Proof.Machine

theorem take_slice (m : Memory) (off n k : Nat) (h : k ≤ n) : (m.slice off n).take k = m.slice off k := by
  obtain ⟨j, rfl⟩ := Nat.exists_eq_add_of_le h
  rw [Memory.slice_append, List.take_left' (by simp)]

theorem drop_slice (m : Memory) (off n k : Nat) (h : k ≤ n) :
    (m.slice off n).drop k = m.slice (off + k) (n - k) := by
  obtain ⟨j, rfl⟩ := Nat.exists_eq_add_of_le h
  rw [Memory.slice_append, List.drop_left' (by simp)]; simp

/-- Taking `k` bytes of a slice: both parts are slices. -/
theorem takeBytes_slice (m : Memory) (off n k : Nat) :
    takeBytes k (m.slice off n) =
      if n < k then none else some (m.slice off k, m.slice (off + k) (n - k)) := by
  unfold takeBytes
  rw [Memory.slice_length]
  split_ifs with h
  · rfl
  · rw [take_slice _ _ _ _ (by omega), drop_slice _ _ _ _ (by omega)]

theorem bigEndian_slice_one (m : Memory) (off : Nat) :
    bigEndian (m.slice off 1) = (m.read off).toNat := by
  simp [Memory.slice, bigEndian]

theorem bigEndian_slice_two (m : Memory) (off : Nat) :
    bigEndian (m.slice off 2) = (m.be16 off).toNat := by
  rw [Memory.be16_toNat]; simp [Memory.slice, bigEndian]

theorem bigEndian_slice_four (m : Memory) (off : Nat) :
    bigEndian (m.slice off 4) = (m.be32 off).toNat := by
  rw [Memory.be32_toNat]; simp [Memory.slice, bigEndian]

theorem bigEndian_append (bs : List Byte) (b : Byte) :
    bigEndian (bs ++ [b]) = bigEndian bs * 256 + b.toNat := by
  simp [bigEndian]

@[simp] theorem beBytes_length (k n : Nat) : (beBytes k n).length = k := by
  induction k generalizing n with
  | zero => rfl
  | succ k ih => simp [beBytes, ih]

theorem bigEndian_beBytes (k n : Nat) (h : n < 256 ^ k) : bigEndian (beBytes k n) = n := by
  induction k generalizing n with
  | zero => simp at h; subst h; rfl
  | succ k ih =>
    rw [beBytes, bigEndian_append, ih _ (by rw [pow_succ] at h; omega), BitVec.toNat_ofNat]; omega

/-- Bytes that follow do not change what is taken. -/
theorem takeBytes_append (n : Nat) (x y : List Byte) :
    takeBytes n x = none ∨
    ∃ a b, takeBytes n x = some (a, b) ∧ takeBytes n (x ++ y) = some (a, b ++ y) := by
  unfold takeBytes
  by_cases h1 : x.length < n
  · simp [h1]
  · right
    have h2 : ¬ (x ++ y).length < n := by rw [List.length_append]; omega
    rw [if_neg h1]
    refine ⟨_, _, rfl, ?_⟩
    rw [if_neg h2, List.take_append_of_le_length (by omega), List.drop_append_of_le_length (by omega)]

/-- The record whose layout starts at `p`, as the source's record. -/
def recordAt (m : Memory) (p : Nat) : SrcRecord where
  messageBegin := (recHeaderAt m p).mb
  messageEnd := (recHeaderAt m p).me
  chunkFlag := (recHeaderAt m p).cf
  shortRecord := (recHeaderAt m p).sr
  idLengthPresent := (recHeaderAt m p).il
  typeNameFormat := (recHeaderAt m p).tnf.toNat
  typeField := m.slice (recTypeOffAt m p) (recTypeLenAt m p).toNat
  idField := m.slice (recIdOffAt m p) (recIdLenAt m p).toNat
  payload := m.slice (recPayloadOffAt m p) (recPayloadLenAt m p).toNat

/-- The unpacked fields as masks of the header byte (rules R87, R130). -/
theorem unpackHeader_masks : ∀ h : Byte,
    (unpackHeader h).mb = (h &&& 0x80#8 != 0) ∧ (unpackHeader h).me = (h &&& 0x40#8 != 0) ∧
    (unpackHeader h).cf = (h &&& 0x20#8 != 0) ∧ (unpackHeader h).sr = (h &&& 0x10#8 != 0) ∧
    (unpackHeader h).il = (h &&& 0x08#8 != 0) ∧
    (unpackHeader h).tnf.toNat = (h &&& 0x07#8).toNat := by decide

/-- The source's record step over a slice is the layout's record at its start, if it fits. -/
theorem srcRecord_slice (m : Memory) (p n : Nat) :
    srcRecord (m.slice p n) =
      if recNextAt m p ≤ p + n then
        some (recordAt m p, m.slice (recNextAt m p) (p + n - recNextAt m p))
      else none := by
  have L := layout_rises m p
  match n with
  | 0 => rw [if_neg (by omega)]; rfl
  | 1 => rw [if_neg (by omega)]; rfl
  | n + 2 =>
    rw [Memory.slice_succ, Memory.slice_succ]
    obtain ⟨b1, b2, b3, b4, b5, b6⟩ := unpackHeader_masks (m.read p)
    simp only [srcRecord]
    rw [← b1, ← b2, ← b3, ← b4, ← b5, ← b6]
    change _ = if recNextAt m p ≤ p + (n+2) then some (recordAt m p, _) else none
    rw [show unpackHeader (m.read p) = recHeaderAt m p from rfl]
    rw [show p + 1 + 1 = p + 2 from rfl, show m.read (p+1) = recTypeLenAt m p from rfl]
    simp only [takeBytes_slice]
    have hA : p + 2 + (if (recHeaderAt m p).sr then 1 else 4) = recAfterPayloadLen m p := rfl
    have hT : recAfterPayloadLen m p + (if (recHeaderAt m p).il then 1 else 0) = recTypeOffAt m p := rfl
    have hI : recTypeOffAt m p + (recTypeLenAt m p).toNat = recIdOffAt m p := rfl
    have hP : recIdOffAt m p + (recIdLenAt m p).toNat = recPayloadOffAt m p := rfl
    have hN : recPayloadOffAt m p + (recPayloadLenAt m p).toNat = recNextAt m p := rfl
    have hpl : bigEndian (m.slice (p+2) (if (recHeaderAt m p).sr then 1 else 4)) = (recPayloadLenAt m p).toNat := by
      unfold recPayloadLenAt
      split_ifs
      · rw [bigEndian_slice_one]; exact (BitVec.toNat_setWidth_of_le (by decide)).symm
      · rw [bigEndian_slice_four]
    have hil : bigEndian (m.slice (recAfterPayloadLen m p) (if (recHeaderAt m p).il then 1 else 0)) = (recIdLenAt m p).toNat := by
      unfold recIdLenAt
      split_ifs
      · rw [bigEndian_slice_one]
      · rfl
    generalize hx : (if (recHeaderAt m p).sr then 1 else 4) = x at *
    generalize hy : (if (recHeaderAt m p).il then 1 else 0) = y at *
    by_cases c1 : n < x
    · have cond : ¬ recNextAt m p ≤ p + (n + 2) := by omega
      simp [c1, cond]
    simp only [c1, if_false, Option.bind_eq_bind, Option.bind_some, hA, takeBytes_slice]
    by_cases c2 : n - x < y
    · have cond : ¬ recNextAt m p ≤ p + (n + 2) := by omega
      simp [c2, cond]
    simp only [c2, if_false, Option.bind_some, hT, takeBytes_slice]
    by_cases c3 : n - x - y < (recTypeLenAt m p).toNat
    · have cond : ¬ recNextAt m p ≤ p + (n + 2) := by omega
      simp [c3, cond]
    simp only [c3, if_false, Option.bind_some, hI, takeBytes_slice, hil]
    by_cases c4 : n - x - y - (recTypeLenAt m p).toNat < (recIdLenAt m p).toNat
    · have cond : ¬ recNextAt m p ≤ p + (n + 2) := by omega
      simp [c4, cond]
    simp only [c4, if_false, Option.bind_some, hP, takeBytes_slice, hpl]
    by_cases c5 : n - x - y - (recTypeLenAt m p).toNat - (recIdLenAt m p).toNat < (recPayloadLenAt m p).toNat
    · have cond : ¬ recNextAt m p ≤ p + (n + 2) := by omega
      simp [c5, cond]
    have cond : recNextAt m p ≤ p + (n + 2) := by omega
    rw [if_pos cond]
    simp only [c5, if_false, Option.bind_some, hN]
    rw [show p + (n+2) - recNextAt m p = n - x - y - (recTypeLenAt m p).toNat - (recIdLenAt m p).toNat - (recPayloadLenAt m p).toNat by omega]
    rfl

/-- A TLV walk step: the entry of one TLV_NEXT, if it yields, then the rest of the walk. -/
theorem walkTlv_succ (fuel : Nat) (s : State) (h : s.tlv.status.done = false) :
    walkTlv (fuel + 1) s =
      let t := s.clearErr.setTlv (tlvNextRegs s.buf s.tlv)
      (if t.tlv.status.valid then tlvEntryOf t :: (walkTlv fuel t).1 else (walkTlv fuel t).1,
        (walkTlv fuel t).2) := by
  simp only [walkTlv, h, exec_tlvNext, Bool.false_eq_true, if_false]

theorem walkTlv_done (fuel : Nat) (s : State) (h : s.tlv.status.done = true) :
    walkTlv fuel s = ([], s) := by
  cases fuel <;> simp [walkTlv, h]

/-- A record walk step: the record of one REC_NEXT, if it yields, then the rest of the walk. -/
theorem walkRec_succ (fuel : Nat) (s : State) (h : s.ndef.status.done = false) :
    walkRec (fuel + 1) s =
      let t := s.clearErr.setNdef (recNextRegs s.buf s.ndef)
      (if t.ndef.status.valid then recordOf t :: (walkRec fuel t).1 else (walkRec fuel t).1,
        (walkRec fuel t).2) := by
  simp only [walkRec, h, exec_recNext, Bool.false_eq_true, if_false]

theorem walkRec_done (fuel : Nat) (s : State) (h : s.ndef.status.done = true) :
    walkRec fuel s = ([], s) := by
  cases fuel <;> simp [walkRec, h]

end Sys2Proof.Machine
end

