-- ==== Sys2Proof/Tests/Slice0.lean ====
section
/-! SUPPORT. The model's own tests. Expected values are those of spec/95_test_vectors.md (named in each
docstring) and of the rules; then one witness for the hypotheses of every statement that has some. -/

namespace Sys2Proof.Tests

open Sys2Proof Sys2Proof.Machine

/-! ### Decoding: words written out bit by bit from rules R81 and R83 (RSV = 24 zero bits, then OP) -/

theorem test_decode_nop : decode 0b00000000000000000000000000000000#32 = .ok .nop := by decide
theorem test_decode_tlvStart : decode 0b00000000000000000000000000000001#32 = .ok .tlvStart := by decide
theorem test_decode_tlvNext : decode 0b00000000000000000000000000000010#32 = .ok .tlvNext := by decide
theorem test_decode_recStart : decode 0b00000000000000000000000000000011#32 = .ok .recStart := by decide
theorem test_decode_recNext : decode 0b00000000000000000000000000000100#32 = .ok .recNext := by decide
theorem test_decode_locate : decode 0b00000000000000000000000000000101#32 = .ok .locate := by decide
theorem test_decode_softReset : decode 0b00000000000000000000000000000110#32 = .ok .softReset := by decide

/-- R84: the first and last unassigned opcodes, the lowest and highest reserved bits. -/
theorem test_decode_illegal :
    decode 0x00000007#32 = .error .opcodeUnassigned ∧ decode 0x000000FF#32 = .error .opcodeUnassigned ∧
    decode 0x00000100#32 = .error .reservedBitsSet ∧ decode 0x80000006#32 = .error .reservedBitsSet := by
  decide

/-- The column "word" of rule R83 as numbered in spec/opcode_table.json. -/
theorem test_decodeTableWord :
    decodeTableWord 32 0 = some .nop ∧ decodeTableWord 32 1 = some .tlvStart ∧
    decodeTableWord 32 2 = some .tlvNext ∧ decodeTableWord 32 3 = some .recStart ∧
    decodeTableWord 32 4 = some .recNext ∧ decodeTableWord 32 5 = some .locate ∧
    decodeTableWord 32 6 = some .softReset ∧ decodeTableWord 32 7 = none ∧
    decodeTableWord 32 0x102 = none := by decide

/-! ### Well-formedness: every ill-formed access is refused, no command is ill-formed -/

/-- R65: 8-bit and 16-bit accesses, a misaligned offset, an offset past 0xFC. -/
theorem test_wf_refuses :
    (Access.regRead 0x04 .w8).wf = false ∧ (Access.regWrite 0x08 .w16 0).wf = false ∧
    (Access.regRead 0x06 .w32).wf = false ∧ (Access.regWrite 0x100 .w32 0).wf = false := by decide

theorem test_wf_accepts :
    (Access.regRead 0xFC .w32).wf = true ∧ (Access.regWrite 0x00 .w32 2).wf = true ∧
    (Access.bufRead 0xFFFFFFFF).wf = true ∧ (Access.bufWrite 1 2).wf = true := by decide

theorem test_wf_commands : ∀ i : Instr, i.wf = true := by intro i; cases i <;> rfl

/-- R187: the four ill-formed accesses have no step. -/
theorem test_refused_accesses :
    ∀ a ∈ [Access.regRead 0x04 .w8, .regWrite 0x08 .w16 0, .regRead 0x06 .w32, .regWrite 0x100 .w32 0],
      perform State.reset a = .refused .registerAccessRefused := by
  intro a ha; fin_cases ha <;> rfl

/-! ### The first step after reset -/

/-- The word placed by `withFetchWord` is run by the very next step. -/
theorem test_first_step :
    step (State.reset.withFetchWord 32 0) = exec .nop State.reset ∧
    step (State.reset.withFetchWord 32 1) = exec .tlvStart State.reset ∧
    step (State.reset.withFetchWord 32 2) = exec .tlvNext State.reset ∧
    step (State.reset.withFetchWord 32 3) = exec .recStart State.reset ∧
    step (State.reset.withFetchWord 32 4) = exec .recNext State.reset ∧
    step (State.reset.withFetchWord 32 5) = exec .locate State.reset ∧
    step (State.reset.withFetchWord 32 6) = exec .softReset State.reset :=
  ⟨rfl, rfl, rfl, rfl, rfl, rfl, rfl⟩

/-! ### One command on a small state -/

/-- The bytes `bs` listed from offset `a` on. -/
def cellsAt : Nat → List Byte → List Host.Cell
  | _, [] => []
  | a, b :: bs => (a, b) :: cellsAt (a + 1) bs

/-- The state after reset with BUF_SIZE = 256 and the image `bs` loaded (rule R89, `load`). -/
def loaded (bs : List Byte) : State :=
  { State.reset with cfgBufSize := 256, buf := ⟨0, cellsAt 0 bs⟩, bufLen := toWord bs.length }

/-- The next state, or `s` itself where there is none. -/
def after (i : Instr) (s : State) : State :=
  match exec i s with
  | .next t => t
  | _ => s

/-- `loaded bs` with the TLV walk started and its cursor at `p`. -/
def walking (bs : List Byte) (p : Nat) : State :=
  let s := loaded bs
  s.setTlv { s.tlv.start s.bufLen with cur := toWord p }

/-- `loaded bs` with the record walk started over `[p, e)`. -/
def parsing (bs : List Byte) (p e : Nat) : State :=
  let s := loaded bs
  s.setNdef (s.ndef.start p e)

/-- The registers listed, as a host reads them. -/
def regs (s : State) (rs : List Reg) : List Nat := rs.map fun r => (readReg s r).toNat

/-- R180, example. -/
theorem test_nop_clears : readReg (after .nop (State.reset.setCmdErr true)) .GSTATUS = 0 := by decide

/-- R104, example: BUF_LEN = 19. -/
theorem test_tlvStart_example :
    regs (after .tlvStart (State.reset.setBufLen 19)) [.TLV_CUR, .TLV_LIM, .TLV_STATUS] = [0, 19, 0] := by
  decide

/-- T10: an extended length in a form that is not the shortest. -/
theorem test_tlvNext_extended :
    regs (after .tlvNext (walking [0x03, 0xFF, 0x00, 0x02, 0xAB, 0xCD] 0))
      [.TLV_STATUS, .TLV_TAG, .TLV_LEN, .TLV_TOFF, .TLV_VOFF, .TLV_CUR, .TLV_COUNT] =
    [0x09, 0x03, 2, 0, 4, 6, 1] := by decide

/-- T12, second step: the Terminator at the last byte. -/
theorem test_tlvNext_terminator :
    regs (after .tlvNext (walking [0xFD, 0x00, 0xFE] 2))
      [.TLV_STATUS, .TLV_TAG, .TLV_LEN, .TLV_TOFF, .TLV_VOFF, .TLV_CUR] =
    [0x23, 0xFE, 0, 2, 3, 3] := by decide

/-- W4: the sum 0x1FFFFFFFE is exact, then clipped to BUF_LEN. -/
theorem test_recStart_no_wrap :
    regs (after .recStart ((loaded [0xD1, 0x01, 0x00, 0x54]).setMsg
      ⟨⟨false, false, .none⟩, 0xFFFFFFFF, 0xFFFFFFFF⟩)) [.REC_BASE, .REC_CUR, .REC_END] =
    [4, 4, 4] := by decide

/-- R137, example: MSG_OFF = 2, MSG_LEN = 16, BUF_LEN = 19. -/
theorem test_recStart_example :
    regs (after .recStart ((State.reset.setBufLen 19).setMsg ⟨⟨false, false, .none⟩, 2, 16⟩))
      [.REC_BASE, .REC_CUR, .REC_END, .REC_STATUS] = [2, 2, 18, 0] := by decide

/-- L1.2: the crafted Text record. -/
theorem test_recNext_text :
    regs (after .recNext (parsing [0xD1, 0x01, 0x05, 0x54, 0x02, 0x65, 0x6E, 0x68, 0x69] 0 9))
      [.REC_STATUS, .REC_COUNT, .REC_CUR, .REC_HDR, .REC_TYPE_LEN, .REC_TYPE_OFF, .REC_ID_LEN,
       .REC_ID_OFF, .REC_PAYLOAD_LEN, .REC_PAYLOAD_OFF, .REC_ROFF] =
    [0x23, 1, 9, 0x00010BD1, 1, 3, 0, 4, 5, 4, 0] := by decide

/-- RV9: the long length 0xFFFFFFFF is compared without wrap-around. -/
theorem test_recNext_no_wrap :
    regs (after .recNext (parsing [0xC1, 0x01, 0xFF, 0xFF, 0xFF, 0xFF, 0x54] 0 7))
      [.REC_STATUS, .REC_HDR, .REC_CUR, .REC_COUNT] = [0x92, 0, 0, 0] := by decide

/-- M3: Null and generic TLVs are passed over; an empty message is found. -/
theorem test_locate_skips :
    regs (after .locate (loaded [0x00, 0x01, 0x01, 0xAA, 0x03, 0x00, 0xFE]))
      [.MSG_STATUS, .MSG_OFF, .MSG_LEN, .TLV_STATUS, .TLV_CUR, .TLV_COUNT] =
    [0x03, 6, 0, 0x05, 6, 3] := by decide

/-- M8: an NDEF Message TLV after the Terminator is never seen. -/
theorem test_locate_terminator :
    regs (after .locate (loaded [0xFE, 0x03, 0x01, 0xAA]))
      [.MSG_STATUS, .MSG_OFF, .MSG_LEN, .TLV_STATUS, .TLV_CUR, .TLV_COUNT] =
    [0x22, 0, 0, 0x23, 1, 1] := by decide

/-- R181, example: after a walk. -/
theorem test_softReset_example :
    regs (after .softReset (walking [0x00, 0xFE] 1))
      [.TLV_CUR, .TLV_STATUS, .BUF_LEN, .CFG_BUF_SIZE] = [0, 0x12, 0, 256] ∧
    (after .softReset (walking [0x00, 0xFE] 1)).buf.read 1 = 0xFE#8 := by decide

/-! ### Host accesses -/

/-- R24: BUF_LEN is clamped to BUF_SIZE. -/
theorem test_bufLen_clamps :
    readReg (writeReg (loaded []) 0x101 .BUF_LEN) .BUF_LEN = 256 ∧
    readReg (writeReg (loaded []) 0x100 .BUF_LEN) .BUF_LEN = 256 ∧
    readReg (writeReg (loaded []) 0xFF .BUF_LEN) .BUF_LEN = 255 := by decide

/-- R68: the last byte of BUF is stored, a write past it is ignored and a read past it gives 0. -/
theorem test_buf_edges :
    hostReadBuf (hostWriteBuf (loaded []) 255 0xA5) 255 = 0xA5#8 ∧
    hostWriteBuf (loaded []) 256 0xA5 = loaded [] ∧ hostReadBuf (loaded []) 256 = 0#8 := by decide

/-- The canonical form: a second write to an address replaces the first, whatever the order. -/
theorem test_buf_canonical :
    (((⟨0, []⟩ : Memory).write 7 1).write 3 2).write 7 5 = ((⟨0, []⟩ : Memory).write 7 5).write 3 2 ∧
    ((((⟨0, []⟩ : Memory).write 7 1).write 3 2).write 7 5).wf = true := by decide

/-- The header rows of section 2.1 as REC_HDR words. -/
theorem test_header_words :
    [0xFF#8, 0x80#8, 0x40#8, 0x20#8, 0x10#8, 0x08#8, 0x07#8, 0x59#8].map
      (fun h => (unpackHeader h).word.toNat) =
    [0x00071FFF, 0x00000180, 0x00000240, 0x00000420, 0x00000810, 0x00001008, 0x00070007, 0x00011A59] := by
  decide

/-! ### Witnesses: states and operands that meet the hypotheses of each statement, clause by clause -/

/-- `loaded bs` with one access next. -/
def facing (bs : List Byte) (a : Access) : State := (loaded bs).setPending [.access a]

/-- `loaded bs` with a hardware reset next. -/
def facingReset (bs : List Byte) : State := (loaded bs).setPending [.hardReset]

theorem test_witness_IllegalWordsByField :
    cmdRsv 0x00000100#32 ≠ 0#24 ∧ cmdRsv 0xFFFFFFFF#32 ≠ 0#24 ∧
    cmdRsv 0x07#32 = 0#24 ∧ 7 ≤ (cmdOp 0x07#32).toNat ∧ cmdRsv 0xFF#32 = 0#24 ∧
    7 ≤ (cmdOp 0xFF#32).toNat ∧ cmdRsv 0x06#32 = 0#24 ∧ (cmdOp 0x06#32).toNat < 7 := by decide

theorem test_witness_DecodeEncodeAgree :
    Instr.softReset.wf = true ∧ decode 0x00000006#32 = .ok .softReset := by decide

theorem test_witness_StepRunsDecodedCommand :
    decode 2 = .ok .tlvNext ∧ (facing [0x00] (.regWrite 0x00 .w32 2)).WritesCmd 2 [] :=
  ⟨by decide, rfl⟩

/-- Also for `CmdErrTellsLastCmdWrite` (first clause), both kinds of word. -/
theorem test_witness_CmdWriteExecutesItsRow :
    (facing [] (.regWrite 0x00 .w32 6)).WritesCmd 6 [] ∧ (6 : Word) = encode .softReset ∧
    (facing [] (.regWrite 0x00 .w32 7)).WritesCmd 7 [] ∧ ∀ i, (7 : Word) ≠ encode i :=
  ⟨rfl, rfl, rfl, by intro i; cases i <;> decide⟩

theorem test_witness_IllegalCommandSetsOnlyCmdErr :
    (facing [] (.regWrite 0x00 .w32 7)).WritesCmd 7 [] ∧ 7 ≤ (cmdOp 7).toNat ∧
    (facing [] (.regWrite 0x00 .w32 0x102)).WritesCmd 0x102 [] ∧ cmdRsv 0x102 ≠ 0#24 :=
  ⟨rfl, by decide, rfl, by decide⟩

theorem test_witness_IdleStepChangesNothing : State.reset.host.pending = [] := rfl

/-- Both outcomes of `OnlyRefusedAccessesStop` occur. -/
theorem test_witness_OnlyRefusedAccessesStop :
    step State.reset = .next State.reset ∧
    step (facing [] (.regRead 0x02 .w32)) = .refused .registerAccessRefused := ⟨rfl, rfl⟩

/-- The lowest and highest mapped offsets of rule R21's table. -/
theorem test_witness_RegisterReadReturnsValue :
    (facing [] (.regRead 0x00 .w32)).host.pending = .access (.regRead 0x00 .w32) :: [] ∧
    (facing [] (.regRead 0x70 .w32)).host.pending = .access (.regRead 0x70 .w32) :: [] := ⟨rfl, rfl⟩

/-- The unmapped offsets' edges, read and written. -/
theorem test_witness_UnmappedOffsetsReadZero :
    (∀ off ∈ [0x3C, 0x74, 0xFC], off % 4 = 0 ∧ (off = 0x3C ∨ (0x74 ≤ off ∧ off ≤ 0xFC))) ∧
    (facing [] (.regRead 0x3C .w32)).host.pending = [.access (.regRead 0x3C .w32)] ∧
    (facing [] (.regWrite 0xFC .w32 9)).host.pending = [.access (.regWrite 0xFC .w32 9)] :=
  ⟨by decide, rfl, rfl⟩

/-- One write for each case of the statement. -/
theorem test_witness_RegisterWritesStore :
    ∀ r ∈ [Reg.CMD, .BUF_LEN, .MSG_OFF, .MSG_LEN, .CFG_BUF_SIZE, .REC_BASE],
      (facing [] (.regWrite r.offset .w32 5)).host.pending =
        [.access (.regWrite r.offset .w32 5)] := fun _ _ => rfl

theorem test_witness_BadRegisterAccessIsRefused :
    (Width.w8 ≠ .w32 ∧ (facing [] (.regRead 0x04 .w8)).host.pending =
      [.access (.regRead 0x04 .w8)]) ∧
    (0x05 % 4 ≠ 0 ∧ (facing [] (.regRead 0x05 .w32)).host.pending =
      [.access (.regRead 0x05 .w32)]) ∧
    (0xFC < 0x100 ∧ (facing [] (.regWrite 0x100 .w32 1)).host.pending =
      [.access (.regWrite 0x100 .w32 1)]) := ⟨⟨by decide, rfl⟩, ⟨by decide, rfl⟩, ⟨by decide, rfl⟩⟩

/-- The last offset inside BUF and the first outside. -/
theorem test_witness_BufWriteStoresOneByte :
    ((facing [] (.bufWrite 255 7)).host.pending = [.access (.bufWrite 255 7)] ∧
      255 < (facing [] (.bufWrite 255 7)).cfgBufSize.toNat) ∧
    ((facing [] (.bufWrite 256 7)).host.pending = [.access (.bufWrite 256 7)] ∧
      (facing [] (.bufWrite 256 7)).cfgBufSize.toNat ≤ 256) :=
  ⟨⟨rfl, by decide⟩, ⟨rfl, by decide⟩⟩

theorem test_witness_BufReadReturnsByte :
    ((facing [0x11] (.bufRead 0)).host.pending = [.access (.bufRead 0)] ∧
      0 < (facing [0x11] (.bufRead 0)).cfgBufSize.toNat) ∧
    ((facing [] (.bufRead 256)).host.pending = [.access (.bufRead 256)] ∧
      (facing [] (.bufRead 256)).cfgBufSize.toNat ≤ 256) := ⟨⟨rfl, by decide⟩, ⟨rfl, by decide⟩⟩

/-- No byte, and an image that fills BUF. -/
theorem test_witness_LoadPlacesImage :
    ([] : List Byte).length ≤ (loaded []).cfgBufSize.toNat ∧
    [0xFE#8].length ≤ (({ loaded [] with cfgBufSize := 1 } : State)).cfgBufSize.toNat := by decide

theorem test_witness_HardResetDrawsBuf :
    (facingReset [0x03]).host.pending = .hardReset :: [] := rfl

theorem test_witness_TlvNextAfterEnd :
    State.reset.tlv.status.done = true ∧ (after .tlvNext (walking [0xFE] 0)).tlv.status.done = true := by
  decide

/-- The Terminator at the last byte. -/
theorem test_witness_TerminatorYieldsAndEnds :
    let s := walking [0x00, 0xFE] 1
    s.tlv.status.done = false ∧ s.tlv.cur.toNat < s.tlv.lim.toNat ∧
      s.buf.read s.tlv.cur.toNat = 0xFE#8 := by decide

/-- A Null at the last byte. -/
theorem test_witness_NullYieldsOneEntry :
    let s := walking [0x00] 0
    s.tlv.status.done = false ∧ s.tlv.cur.toNat < s.tlv.lim.toNat ∧
      s.buf.read s.tlv.cur.toNat = 0x00#8 := by decide

/-- T7 and a length of 254 that fits exactly; T8 and the extended length 65535 that fits exactly. -/
theorem test_witness_FittingFrameIsYielded :
    (∀ s ∈ [walking [0x10, 0x00] 0, { walking [0xFF, 0xFE] 0 with
        tlv := (State.reset.tlv.start 256) }],
      s.tlv.status.done = false ∧ s.buf.read s.tlv.cur.toNat ≠ 0x00#8 ∧
      s.buf.read s.tlv.cur.toNat ≠ 0xFE#8 ∧ s.buf.read (s.tlv.cur.toNat + 1) ≠ 0xFF#8 ∧
      s.tlv.cur.toNat + 2 + (s.buf.read (s.tlv.cur.toNat + 1)).toNat ≤ s.tlv.lim.toNat) ∧
    (∀ s ∈ [walking [0x10, 0xFF, 0x00, 0x00] 0, { walking [0x03, 0xFF, 0xFF, 0xFF] 0 with
        tlv := (State.reset.tlv.start 65539) }],
      s.tlv.status.done = false ∧ s.buf.read s.tlv.cur.toNat ≠ 0x00#8 ∧
      s.buf.read s.tlv.cur.toNat ≠ 0xFE#8 ∧ s.buf.read (s.tlv.cur.toNat + 1) = 0xFF#8 ∧
      s.tlv.cur.toNat + 4 + ((s.buf.read (s.tlv.cur.toNat + 2)).toNat * 256 +
        (s.buf.read (s.tlv.cur.toNat + 3)).toNat) ≤ s.tlv.lim.toNat) := by decide

/-- T14, T4, T5, T6 and an extended length one byte too long. -/
theorem test_witness_TruncatedFramesEndWalk :
    (let s := walking [] 0
     s.tlv.status.done = false ∧ s.tlv.lim.toNat ≤ s.tlv.cur.toNat) ∧
    (let s := walking [0x01] 0
     s.tlv.status.done = false ∧ s.buf.read 0 ≠ 0x00#8 ∧ s.buf.read 0 ≠ 0xFE#8 ∧
       s.tlv.cur.toNat + 1 = s.tlv.lim.toNat) ∧
    (let s := walking [0x03, 0xFF, 0x00] 0
     s.tlv.status.done = false ∧ s.buf.read 0 ≠ 0x00#8 ∧ s.buf.read 0 ≠ 0xFE#8 ∧
       s.tlv.cur.toNat + 1 < s.tlv.lim.toNat ∧ s.tlv.lim.toNat < s.tlv.cur.toNat + 4 ∧
       s.buf.read 1 = 0xFF#8) ∧
    (let s := walking [0x03, 0x05, 0xD1, 0x01] 0
     s.tlv.status.done = false ∧ s.buf.read 0 ≠ 0x00#8 ∧ s.buf.read 0 ≠ 0xFE#8 ∧
       s.tlv.cur.toNat + 1 < s.tlv.lim.toNat ∧ s.buf.read 1 ≠ 0xFF#8 ∧
       s.tlv.lim.toNat < s.tlv.cur.toNat + 2 + (s.buf.read 1).toNat) ∧
    (let s := walking [0x03, 0xFF, 0x00, 0x01] 0
     s.tlv.status.done = false ∧ s.buf.read 0 ≠ 0x00#8 ∧ s.buf.read 0 ≠ 0xFE#8 ∧
       s.tlv.cur.toNat + 4 ≤ s.tlv.lim.toNat ∧ s.buf.read 1 = 0xFF#8 ∧
       s.tlv.lim.toNat < s.tlv.cur.toNat + 4 + ((s.buf.read 2).toNat * 256 + (s.buf.read 3).toNat)) := by
  decide

/-- T1, and the same frame one byte longer. -/
theorem test_witness_ExactFitThenEobTag :
    (let s := walking [0x03, 0x02, 0xAA, 0xBB] 0
     s.tlv.status.done = false ∧ s.buf.read 0 ≠ 0x00#8 ∧ s.buf.read 0 ≠ 0xFE#8 ∧
       s.buf.read 1 = 2 ∧ s.tlv.cur.toNat + 2 + 2 = s.tlv.lim.toNat) ∧
    (let s := walking [0x03, 0x03, 0xAA, 0xBB] 0
     s.tlv.status.done = false ∧ s.buf.read 0 ≠ 0x00#8 ∧ s.buf.read 0 ≠ 0xFE#8 ∧
       s.buf.read 1 = 3 ∧ s.tlv.cur.toNat + 1 < s.tlv.lim.toNat ∧
       s.tlv.cur.toNat + 2 + 3 = s.tlv.lim.toNat + 1) := by decide

/-- Two states that agree below TLV_LIM and differ at it. -/
theorem test_witness_TlvNextReadsOnlyBelowLimit :
    let s := { walking [0x10, 0x00, 0x55] 0 with tlv := State.reset.tlv.start 2 }
    let s' := { walking [0x10, 0x00, 0x66] 0 with tlv := State.reset.tlv.start 2 }
    s.tlv.cur = s'.tlv.cur ∧ s.tlv.lim = s'.tlv.lim ∧ s.tlv.status.done = s'.tlv.status.done ∧
      s.buf.AgreeOn s'.buf s.tlv.cur.toNat s.tlv.lim.toNat ∧ s.buf.read 2 ≠ s'.buf.read 2 := by
  refine ⟨rfl, rfl, rfl, fun a _ h => ?_, by decide⟩
  have : a < 2 := h
  interval_cases a <;> rfl

/-- Found and not found both occur. -/
theorem test_witness_LocatedMessageInBuffer :
    (after .locate (loaded [0x03, 0x00])).msg.status.found = true ∧
    (after .locate (loaded [0x03, 0x01])).msg.status.found = false := by decide

theorem test_witness_RecNextAfterEnd :
    State.reset.ndef.status.done = true ∧
    (after .recNext (parsing [0xD1, 0x01, 0x00, 0x54] 0 4)).ndef.status.done = true := by decide

/-- RV1 (SR = 1, ME = 1), RV10 (all lengths 0), RV11 (SR = 0), RV15 (IL = 1), each at its exact fit or
inside. -/
theorem test_witness_FittingRecordIsYielded :
    ∀ s ∈ [parsing [0xD1, 0x01, 0x00, 0x54] 0 4, parsing [0x10, 0x00, 0x00] 0 3,
        parsing [0xC1, 0x01, 0x00, 0x00, 0x00, 0x01, 0x54, 0x99] 0 8,
        parsing [0xDD, 0x00, 0x01, 0x00, 0x77, 0xFE, 0xFE] 0 7],
      s.ndef.status.done = false ∧ s.ndef.cur.toNat = 0 ∧
      recNextAt s.buf 0 ≤ s.ndef.endOff.toNat := by decide

/-- RV0, RV2, RV3, RV5, RV6, RV7, RV8: one state for each stop. -/
theorem test_witness_TruncatedRecordsEndWalk :
    (∀ s ∈ [parsing [] 0 0, parsing [0xD1] 0 1, parsing [0xD1, 0x01] 0 2, parsing [0xD9, 0x01, 0x00] 0 3,
        parsing [0xD1, 0x02, 0x00, 0x54] 0 4, parsing [0xD9, 0x01, 0x00, 0x02, 0x54, 0x41] 0 6,
        parsing [0xD1, 0x01, 0x03, 0x54, 0x41] 0 5],
      s.ndef.status.done = false ∧ s.ndef.cur.toNat = 0 ∧ s.ndef.endOff.toNat = s.bufLen.toNat) ∧
    (let m := (parsing [0xD1, 0x01] 0 2).buf
     0 + 2 ≤ 2 ∧ 2 < recAfterPayloadLen m 0) ∧
    (let m := (parsing [0xD9, 0x01, 0x00] 0 3).buf
     recAfterPayloadLen m 0 ≤ 3 ∧ 3 < recTypeOffAt m 0) ∧
    (let m := (parsing [0xD1, 0x02, 0x00, 0x54] 0 4).buf
     recTypeOffAt m 0 ≤ 4 ∧ 4 < recIdOffAt m 0) ∧
    (let m := (parsing [0xD9, 0x01, 0x00, 0x02, 0x54, 0x41] 0 6).buf
     recIdOffAt m 0 ≤ 6 ∧ 6 < recPayloadOffAt m 0) ∧
    (let m := (parsing [0xD1, 0x01, 0x03, 0x54, 0x41] 0 5).buf
     recPayloadOffAt m 0 ≤ 5 ∧ 5 < recNextAt m 0) := by decide

/-- Two states that agree inside the window and differ at its end (W3). -/
theorem test_witness_RecNextReadsOnlyWindow :
    let s := parsing [0x10, 0x00, 0x00, 0x54] 0 3
    let s' := parsing [0x10, 0x00, 0x00, 0x55] 0 3
    s.ndef.cur = s'.ndef.cur ∧ s.ndef.endOff = s'.ndef.endOff ∧
      s.ndef.status.done = s'.ndef.status.done ∧
      s.buf.AgreeOn s'.buf s.ndef.cur.toNat s.ndef.endOff.toNat ∧ s.buf.read 3 ≠ s'.buf.read 3 := by
  refine ⟨rfl, rfl, rfl, fun a _ h => ?_, by decide⟩
  have : a < 3 := h
  interval_cases a <;> rfl

theorem test_witness_RecWalkEnds :
    exec .recStart ((loaded [0x10, 0x00, 0x00]).setMsg ⟨⟨true, true, .none⟩, 0, 3⟩) =
      .next (after .recStart ((loaded [0x10, 0x00, 0x00]).setMsg ⟨⟨true, true, .none⟩, 0, 3⟩)) := rfl

/-- M3: the empty message LOCATE finds leaves an empty window inside BUF. -/
theorem test_witness_EmptyWindowYieldsNoRecord :
    let s := after .locate (loaded [0x00, 0x01, 0x01, 0xAA, 0x03, 0x00, 0xFE])
    s.msg.len = 0 ∧ s.msg.off = 6 := by decide

theorem test_witness_TlvCommandsFrame :
    (Instr.tlvStart = .tlvStart ∨ Instr.tlvStart = .tlvNext) ∧
    (Instr.tlvNext = .tlvStart ∨ Instr.tlvNext = .tlvNext) := by decide

theorem test_witness_RecCommandsFrame :
    (Instr.recStart = .recStart ∨ Instr.recStart = .recNext) ∧
    (Instr.recNext = .recStart ∨ Instr.recNext = .recNext) := by decide

/-- T3: two Nulls, three TLV_NEXT steps. -/
theorem test_witness_TlvWalkEnds :
    runCommands (.tlvStart :: List.replicate 3 .tlvNext) (loaded [0x00, 0x00]) =
      .next (after .tlvNext (after .tlvNext (after .tlvNext (after .tlvStart (loaded [0x00, 0x00]))))) ∧
    (loaded [0x00, 0x00]).bufLen.toNat + 1 = 3 := ⟨rfl, rfl⟩

/-- M5: the search stops at its first step, `k = 0`. -/
theorem test_witness_LocateWalksToFirstMessage :
    let s := loaded [0x03, 0x01, 0xAA, 0x03, 0x01, 0xBB]
    runCommands [.tlvStart, .tlvNext] s = .next (after .tlvNext (after .tlvStart s)) ∧
      (after .tlvNext (after .tlvStart s)).tlv.tag = 0x03#8 := ⟨rfl, by decide⟩

/-- A host byte write that changes a byte. -/
theorem test_witness_OnlyHostWritesBuf :
    let s := facing [0x11] (.bufWrite 0 0x22)
    let t := { (loaded [0x11]).setPending [] with buf := ⟨0, [(0, 0x22#8)]⟩ }
    step s = .next t ∧ t.buf.read 0 ≠ s.buf.read 0 := ⟨rfl, by decide⟩

/-- Second clause of `CmdErrTellsLastCmdWrite`: a step that is neither a CMD write nor a reset. -/
theorem test_witness_CmdErrTellsLastCmdWrite :
    let s := facing [0x11] (.bufRead 0)
    step s = .next (((loaded [0x11]).setPending []).reply (.byte 0x11)) ∧
      (∀ w rest, ¬ s.WritesCmd w rest) ∧ (∀ rest, s.host.pending ≠ .hardReset :: rest) := by
  refine ⟨rfl, fun w rest h => ?_, fun rest h => ?_⟩
  · simp [State.WritesCmd, facing] at h
  · simp [facing] at h

/-- TLV_START changes TLV_LIM; REC_START changes REC_END. -/
theorem test_witness_LimitsCapturedAtStart :
    (let s := facing [0x00] (.regWrite 0x00 .w32 1)
     step s = .next (after .tlvStart ((loaded [0x00]).setPending [])) ∧
       (after .tlvStart ((loaded [0x00]).setPending [])).tlv.lim ≠ s.tlv.lim) ∧
    (let s := (facing [0x00] (.regWrite 0x00 .w32 3)).setMsg ⟨⟨false, false, .none⟩, 0, 1⟩
     step s = .next (after .recStart (s.setPending [])) ∧
       (after .recStart (s.setPending [])).ndef.endOff ≠ s.ndef.endOff) :=
  ⟨⟨rfl, by decide⟩, ⟨rfl, by decide⟩⟩

theorem test_witness_MsgStatusOnlyByLocate :
    let s := facing [0x03, 0x00] (.regWrite 0x00 .w32 5)
    step s = .next (after .locate (s.setPending [])) ∧
      (after .locate (s.setPending [])).msg.status ≠ s.msg.status := ⟨rfl, by decide⟩

/-- A state in the middle of a TLV walk, with the entry of T1 in its result registers, about to take
another step: it meets the invariant. -/
theorem test_witness_StepKeepsInvariant :
    let s := (after .tlvNext (walking [0x03, 0x02, 0xAA, 0xBB] 0)).setPending
      [.access (commandAccess 2)]
    s.Inv ∧ step s = .next (after .tlvNext (s.setPending [])) := by
  refine ⟨?_, rfl⟩
  constructor
  case tlv =>
    constructor
    case form => exact fun _ => show 0x03#8 ≠ 0x00#8 ∧ 0x03#8 ≠ 0xFE#8 ∧ 2 ≤ 254 ∧ 2 = 0 + 2 by decide
    all_goals decide
  case msg => constructor <;> decide
  case ndef => constructor <;> decide
  all_goals decide

/-- L1.4 (b): the image of the source's properties, in BUF (also for `TlvTruncationYieldsPrefix`). -/
theorem test_witness_TlvWalkIsSourceSequence :
    let image := [0x03#8, 0x09#8, 0xD1#8, 0x01#8, 0x05#8, 0x54#8, 0x02#8, 0x65#8, 0x6E#8, 0x68#8,
      0x69#8, 0xFE#8]
    (loaded image).buf.Holds 0 image ∧ (loaded image).bufLen.toNat = image.length ∧
      (11 : Word).toNat ≤ (loaded image).bufLen.toNat := ⟨by rfl, rfl, by decide⟩

/-- Both results of the source's locator occur (M1, M8). -/
theorem test_witness_LocateIsSourceResult :
    (loaded [0x03, 0x01, 0xAA]).buf.Holds 0 [0x03, 0x01, 0xAA] ∧
    (loaded [0x03, 0x01, 0xAA]).bufLen.toNat = [0x03#8, 0x01#8, 0xAA#8].length ∧
    srcLocate [0x03, 0x01, 0xAA] = some [0xAA] ∧ srcLocate [0xFE, 0x03, 0x01, 0xAA] = none :=
  ⟨by rfl, rfl, by decide, by decide⟩

/-- L1.6: a window of two records and a tail that is never parsed. -/
theorem test_witness_RecWalkIsSourceSequence :
    let message := [0x91#8, 0x01#8, 0x00#8, 0x54#8, 0x51#8, 0x01#8, 0x00#8, 0x55#8, 0xD1#8, 0x01#8,
      0x00#8, 0x54#8]
    let s := (loaded message).setMsg ⟨⟨false, false, .none⟩, 0, 12⟩
    s.buf.Holds s.msg.off.toNat message ∧ s.msg.len.toNat = message.length ∧
      s.msg.off.toNat + s.msg.len.toNat ≤ s.bufLen.toNat ∧ (srcRecords message).length = 2 :=
  ⟨by rfl, rfl, by decide, by decide⟩

theorem test_witness_RecTruncationYieldsPrefix :
    (3 : Word).toNat ≤ ((loaded [0x10, 0x00, 0x00, 0x10]).setMsg
      ⟨⟨false, false, .none⟩, 0, 4⟩).msg.len.toNat := by decide

/-- L1.2: the crafted record and its image as the spec writes it out. -/
theorem test_witness_RecordRoundTrip :
    let r : SrcRecord := ⟨true, true, false, true, false, 1, [0x54], [], [0x02, 0x65, 0x6E, 0x68, 0x69]⟩
    let s := (loaded r.image).setMsg ⟨⟨false, false, .none⟩, 0, 9⟩
    r.image = [0xD1, 0x01, 0x05, 0x54, 0x02, 0x65, 0x6E, 0x68, 0x69] ∧ r.fits = true ∧
      s.buf.Holds s.msg.off.toNat r.image ∧ s.msg.len.toNat = r.image.length ∧
      s.msg.off.toNat + s.msg.len.toNat ≤ s.bufLen.toNat :=
  ⟨by decide, by decide, by rfl, by decide, by decide⟩

/-- A record with SR = 0 and IL = 1 fits the layout too. -/
theorem test_witness_RecordRoundTrip_long :
    let r : SrcRecord := ⟨true, false, false, false, true, 7, [0x54], [0x41], [0x99]⟩
    r.fits = true ∧ r.image = [0x8F, 0x01, 0x00, 0x00, 0x00, 0x01, 0x01, 0x54, 0x41, 0x99] := by decide

end Sys2Proof.Tests
end

section
/-! The equivalence of rule R15: what the block yields is what the source's functions of Machine/Source.lean
compute. A walk in progress stands for the bytes from its cursor up to its limit (`Memory.span`); one NEXT
command takes from them what one unrolling of the source takes (`TlvSourceStep`, `RecSourceStep`), and the
walks and LOCATE's search follow by induction over their fuel. -/

namespace Sys2Proof.Machine

/-! ### The bytes a walk has before it -/

/-- The bytes of BUF from offset `p` up to offset `e`. -/
def Memory.span (m : Memory) (p e : Nat) : List Byte := m.slice p (e - p)

theorem Memory.span_of_le (m : Memory) {p e : Nat} (h : e ≤ p) : m.span p e = [] := by
  rw [Memory.span, Nat.sub_eq_zero_of_le h, Memory.slice_zero]

theorem Memory.span_cons (m : Memory) {p e : Nat} (h : p < e) :
    m.span p e = m.read p :: m.span (p + 1) e := by
  rw [Memory.span, show e - p = (e - (p + 1)) + 1 by omega, Memory.slice_succ, ← Memory.span]

theorem takeBytes_span (m : Memory) {p e : Nat} (k : Nat) (h : p ≤ e) :
    takeBytes k (m.span p e) =
      if e < p + k then none else some (m.slice p k, m.span (p + k) e) := by
  have hlt : e - p < k ↔ e < p + k := by omega
  simp only [Memory.span, takeBytes_slice, hlt, Nat.sub_sub]

/-- An image BUF holds is the span it fills. -/
theorem Memory.Holds.span_eq {m : Memory} {off : Nat} {image : List Byte} (h : m.Holds off image) :
    m.span off (off + image.length) = image := by
  rw [Memory.span, Nat.add_sub_cancel_left]; exact h

/-! ### The source's TLV step, case by case -/

theorem srcTlvFrom_nil (fuel : Nat) : srcTlvFrom fuel [] = [] := by cases fuel <;> rfl

theorem srcTlvFrom_terminator (fuel : Nat) (rest : List Byte) :
    srcTlvFrom (fuel + 1) (0xFE#8 :: rest) = [⟨0xFE#8, 0, []⟩] := rfl

theorem srcTlvFrom_null (fuel : Nat) (rest : List Byte) :
    srcTlvFrom (fuel + 1) (0x00#8 :: rest) = ⟨0x00#8, 0, []⟩ :: srcTlvFrom fuel rest := rfl

theorem srcTlvFrom_noLength (fuel : Nat) {tag : Byte} {rest : List Byte} (hT : tag ≠ 0xFE#8)
    (hN : tag ≠ 0x00#8) (hl : srcTlvLength rest = none) : srcTlvFrom fuel (tag :: rest) = [] := by
  cases fuel <;> simp [srcTlvFrom, hT, hN, hl]

theorem srcTlvFrom_noValue (fuel : Nat) {tag : Byte} {rest body : List Byte} {len : Nat}
    (hT : tag ≠ 0xFE#8) (hN : tag ≠ 0x00#8) (hl : srcTlvLength rest = some (len, body))
    (hv : takeBytes len body = none) : srcTlvFrom fuel (tag :: rest) = [] := by
  cases fuel <;> simp [srcTlvFrom, hT, hN, hl, hv]

theorem srcTlvFrom_frame (fuel : Nat) {tag : Byte} {rest body value rest' : List Byte} {len : Nat}
    (hT : tag ≠ 0xFE#8) (hN : tag ≠ 0x00#8) (hl : srcTlvLength rest = some (len, body))
    (hv : takeBytes len body = some (value, rest')) :
    srcTlvFrom (fuel + 1) (tag :: rest) = ⟨tag, len, value⟩ :: srcTlvFrom fuel rest' := by
  simp [srcTlvFrom, hT, hN, hl, hv]

/-- The source reads the length field of a span as `DecodeTlvLength` does (rules R100, R101). -/
theorem srcTlvLength_span_short {m : Memory} {q e : Nat} (hq : q < e) (hl : m.read q ≠ 0xFF#8) :
    srcTlvLength (m.span q e) = some ((m.read q).toNat, m.span (q + 1) e) := by
  simp [m.span_cons hq, srcTlvLength, hl]

theorem srcTlvLength_span_extended {m : Memory} {q e : Nat} (hq : q + 3 ≤ e)
    (hl : m.read q = 0xFF#8) :
    srcTlvLength (m.span q e) = some ((m.be16 (q + 1)).toNat, m.span (q + 3) e) := by
  rw [m.span_cons (by omega)]
  simp [srcTlvLength, hl, takeBytes_span m 2 (show q + 1 ≤ e by omega), bigEndian_slice_two,
    show ¬ e < q + 1 + 2 by omega]

theorem srcTlvLength_span_empty {m : Memory} {q e : Nat} (hq : e ≤ q) :
    srcTlvLength (m.span q e) = none := by
  rw [m.span_of_le hq]; rfl

theorem srcTlvLength_span_cut {m : Memory} {q e : Nat} (hq : q < e) (hl : m.read q = 0xFF#8)
    (hx : e < q + 3) : srcTlvLength (m.span q e) = none := by
  simp [m.span_cons hq, srcTlvLength, hl, takeBytes_span m 2 (show q + 1 ≤ e by omega),
    show e < q + 1 + 2 by omega]

/-! ### One TLV_NEXT is one step of the source -/

/-- The bytes from the walk's cursor up to its limit. -/
def TlvRegs.ahead (m : Memory) (r : TlvRegs) : List Byte := m.span r.cur.toNat r.lim.toNat

/-- The entry in the result registers, its value taken from BUF. -/
def TlvRegs.entry (m : Memory) (r : TlvRegs) : SrcEntry :=
  ⟨r.tag, r.len.toNat, m.slice r.voff.toNat r.len.toNat⟩

theorem tlvEntryOf_eq (s : State) : tlvEntryOf s = s.tlv.entry s.buf := rfl

/-- A walk that has not ended and whose cursor is inside its limit (rule R27). -/
structure TlvRegs.Walking (r : TlvRegs) : Prop where
  running : r.status.done = false
  inside : r.cur.toNat ≤ r.lim.toNat

theorem TlvRegs.walking_start (r : TlvRegs) (lim : Word) : (r.start lim).Walking := ⟨rfl, by simp⟩

/-- What a TLV_NEXT from `r` to `r'` and the source have in common: neither has an entry, both have the
Terminator as their last entry, or both have the same entry and the same bytes still before them. -/
inductive TlvSourceStep (m : Memory) (r r' : TlvRegs) : Prop
  | stop (invalid : r'.status.valid = false) (done : r'.status.done = true)
      (source : ∀ fuel, srcTlvFrom fuel (r.ahead m) = [])
  | terminator (valid : r'.status.valid = true) (done : r'.status.done = true)
      (tag : r'.tag = 0xFE#8)
      (source : ∀ fuel, srcTlvFrom (fuel + 1) (r.ahead m) = [r'.entry m])
  | more (valid : r'.status.valid = true) (tag : r'.tag ≠ 0xFE#8) (walking : r'.Walking)
      (lim : r'.lim = r.lim) (advance : r.cur.toNat < r'.cur.toNat)
      (source : ∀ fuel, srcTlvFrom (fuel + 1) (r.ahead m) =
        r'.entry m :: srcTlvFrom fuel (r'.ahead m))

theorem TlvSourceStep.endWith {m : Memory} {r : TlvRegs} (c : TlvCause)
    (h : ∀ fuel, srcTlvFrom fuel (r.ahead m) = []) : TlvSourceStep m r (r.endWith c) :=
  .stop rfl rfl h

/-- A yield stores the source's entry: the narrowing to the registers changes no number. -/
theorem TlvSourceStep.yield {m : Memory} {r : TlvRegs} {tag : Byte} {len voff : Nat} (fmt : LenForm)
    (h : r.status.done = false) (hT : tag ≠ 0xFE#8) (hlen : len < 2 ^ 16) (hp : r.cur.toNat < voff)
    (hv : voff + len ≤ r.lim.toNat)
    (hs : ∀ fuel, srcTlvFrom (fuel + 1) (r.ahead m) =
      ⟨tag, len, m.slice voff len⟩ :: srcTlvFrom fuel (m.span (voff + len) r.lim.toNat)) :
    TlvSourceStep m r (r.yield tag r.cur.toNat len voff fmt (voff + len)) := by
  have hlim := r.lim.isLt
  have hvoff : (toWord voff).toNat = voff := toNat_toWord (by omega)
  have hcur : (toWord (voff + len)).toNat = voff + len := toNat_toWord (by omega)
  have hl : (BitVec.ofNat 16 len).toNat = len :=
    (BitVec.toNat_ofNat len 16).trans (Nat.mod_eq_of_lt hlen)
  refine .more rfl hT ⟨h, ?_⟩ rfl ?_ fun fuel => ?_
  · simpa [hcur] using hv
  · rw [TlvRegs.yield_cur, hcur]; omega
  · rw [hs]; simp [TlvRegs.entry, TlvRegs.ahead, hvoff, hcur, hl]

theorem GenericTag.ahead_eq {m : Memory} {r : TlvRegs} (g : GenericTag m r) :
    r.ahead m = m.read r.cur.toNat :: m.span (r.cur.toNat + 1) r.lim.toNat :=
  m.span_cons g.inside

/-- A frame whose length field cannot be read, as the source has it. -/
theorem GenericTag.source_noLength {m : Memory} {r : TlvRegs} (g : GenericTag m r)
    (hl : srcTlvLength (m.span (r.cur.toNat + 1) r.lim.toNat) = none) (fuel : Nat) :
    srcTlvFrom fuel (r.ahead m) = [] :=
  g.ahead_eq ▸ srcTlvFrom_noLength fuel g.not_terminator g.not_null hl

/-- A frame whose value would pass the limit, as the source has it. -/
theorem GenericTag.source_pastEnd {m : Memory} {r : TlvRegs} (g : GenericTag m r) {len q : Nat}
    (hl : srcTlvLength (m.span (r.cur.toNat + 1) r.lim.toNat) = some (len, m.span q r.lim.toNat))
    (hq : q ≤ r.lim.toNat) (hv : r.lim.toNat < q + len) (fuel : Nat) :
    srcTlvFrom fuel (r.ahead m) = [] :=
  g.ahead_eq ▸ srcTlvFrom_noValue fuel g.not_terminator g.not_null hl
    (by rw [takeBytes_span m len hq, if_pos hv])

/-- A frame that fits, as the source has it. -/
theorem GenericTag.source_frame {m : Memory} {r : TlvRegs} (g : GenericTag m r) {len q : Nat}
    (hl : srcTlvLength (m.span (r.cur.toNat + 1) r.lim.toNat) = some (len, m.span q r.lim.toNat))
    (hv : q + len ≤ r.lim.toNat) (fuel : Nat) :
    srcTlvFrom (fuel + 1) (r.ahead m) =
      ⟨m.read r.cur.toNat, len, m.slice q len⟩ ::
        srcTlvFrom fuel (m.span (q + len) r.lim.toNat) :=
  g.ahead_eq ▸ srcTlvFrom_frame fuel g.not_terminator g.not_null hl
    (by rw [takeBytes_span m len (by omega), if_neg (by omega)])

/-- Every TLV_NEXT of a walk in progress is a step of the source (rule R15). -/
theorem tlvNextRegs_source (m : Memory) {r : TlvRegs} (w : r.Walking) :
    TlvSourceStep m r (tlvNextRegs m r) := by
  have step := tlvNextRegs_step m r
  generalize tlvNextRegs m r = r' at step
  cases step with
  | ended h => simp [w.running] at h
  | noTag h hp =>
    exact .endWith _ fun fuel => by rw [TlvRegs.ahead, m.span_of_le hp, srcTlvFrom_nil]
  | terminator h hp ht =>
    refine .terminator rfl rfl rfl fun fuel => ?_
    rw [TlvRegs.ahead, m.span_cons hp, ht, srcTlvFrom_terminator]; rfl
  | null h hp ht =>
    refine .yield (len := 0) .none h (by decide) (by decide) (by omega) hp fun fuel => ?_
    rw [TlvRegs.ahead, m.span_cons hp, ht, srcTlvFrom_null]; rfl
  | noLength g hq => exact .endWith _ (g.source_noLength (srcTlvLength_span_empty hq))
  | noExtLength g hq hl hx =>
    exact .endWith _ (g.source_noLength (srcTlvLength_span_cut hq hl hx))
  | shortPastEnd g hl hq hv =>
    exact .endWith _ (g.source_pastEnd (srcTlvLength_span_short hq hl) hq hv)
  | extendedPastEnd g hl hq hv =>
    exact .endWith _ (g.source_pastEnd (srcTlvLength_span_extended hq hl) hq hv)
  | short g hl hv =>
    have hlen := (m.read (r.cur.toNat + 1)).isLt
    exact .yield _ g.running g.not_terminator (by omega) (by omega) hv
      (g.source_frame (srcTlvLength_span_short (by omega) hl) hv)
  | extended g hl hv =>
    exact .yield _ g.running g.not_terminator (m.be16 _).isLt (by omega) hv
      (g.source_frame (srcTlvLength_span_extended (by omega) hl) hv)

/-- A walk at its limit ends with EOB_TAG (rule R105 step 1). -/
theorem tlvNextRegs_atLimit (m : Memory) {r : TlvRegs} (w : r.Walking)
    (h : r.lim.toNat ≤ r.cur.toNat) : tlvNextRegs m r = r.endWith .eobTag := by
  simp [tlvNextRegs, w.running, h]

/-! ### The TLV walk -/

/-- A walk in progress yields what the source yields from the bytes before it, and it ends. The block
needs one step more than the source: the one that finds the end. -/
theorem walkTlv_source {fuel : Nat} {s : State} (w : s.tlv.Walking)
    (hf : s.tlv.lim.toNat ≤ s.tlv.cur.toNat + fuel) :
    (walkTlv (fuel + 1) s).1 = srcTlvFrom fuel (s.tlv.ahead s.buf) ∧
    (walkTlv (fuel + 1) s).2.tlv.status.done = true := by
  induction fuel generalizing s with
  | zero =>
    rw [walkTlv_succ _ _ w.running, tlvNextRegs_atLimit _ w hf]
    exact ⟨rfl, rfl⟩
  | succ fuel ih =>
    rw [walkTlv_succ _ _ w.running]
    cases tlvNextRegs_source s.buf w with
    | stop invalid done source => simp [invalid, done, walkTlv_done, source]
    | terminator valid done _ source =>
      simp [valid, done, walkTlv_done, source, tlvEntryOf_eq]
    | more valid _ walking lim advance source =>
      obtain ⟨hlist, hdone⟩ := ih (s := s.clearErr.setTlv (tlvNextRegs s.buf s.tlv)) walking
        (by simp only [State.setTlv_tlv, lim]; omega)
      exact ⟨by simp [valid, source, hlist, tlvEntryOf_eq], hdone⟩

/-- TLV_START over an image of BUF_LEN bytes puts exactly the image before the walk (rule R104). -/
theorem TlvRegs.ahead_start {s : State} {image : List Byte} (hold : s.buf.Holds 0 image)
    (hlen : s.bufLen.toNat = image.length) : (s.tlv.start s.bufLen).ahead s.buf = image := by
  simpa [TlvRegs.ahead, hlen] using hold.span_eq

/-- Settles O50: TLV_START puts the whole image before the walk, and a walk yields what the source's TLV
Walker (assumption 15) yields from the bytes before it. -/
theorem tlvWalkIsSourceSequence : Obligations.TlvWalkIsSourceSequence := by
  intro s image hold hlen
  obtain ⟨hlist, hdone⟩ := walkTlv_source (fuel := image.length)
    (s := s.clearErr.setTlv (s.tlv.start s.bufLen)) (s.tlv.walking_start s.bufLen) (by simp [hlen])
  exact ⟨_, exec_tlvStart s,
    hlist.trans (congrArg (srcTlvFrom _) (TlvRegs.ahead_start hold hlen)), hdone⟩

/-! ### LOCATE -/

/-- The first NDEF Message entry before a Terminator: the search of `srcLocate`. -/
def firstMessage (entries : List SrcEntry) : Option SrcEntry :=
  (entries.takeWhile (·.tag != 0xFE#8)).find? (·.tag == 0x03#8)

theorem srcLocate_eq (buffer : List Byte) :
    srcLocate buffer = (firstMessage (srcTlvs buffer)).map (·.value) := rfl

theorem firstMessage_terminator {e : SrcEntry} (es : List SrcEntry) (h : e.tag = 0xFE#8) :
    firstMessage (e :: es) = none := by simp [firstMessage, h]

theorem firstMessage_cons {e : SrcEntry} (es : List SrcEntry) (h : e.tag ≠ 0xFE#8) :
    firstMessage (e :: es) = if e.tag = 0x03#8 then some e else firstMessage es := by
  by_cases hm : e.tag = 0x03#8 <;> simp [firstMessage, h, hm]

/-- A step that ends the walk ends the search. -/
theorem eq_of_locateLoop_of_done {m : Memory} {fuel : Nat} {r r' : TlvRegs}
    (h : locateLoop m (fuel + 1) r = some r') (hd : (tlvNextRegs m r).status.done = true) :
    r' = tlvNextRegs m r := by
  have hloop : locateLoop m (fuel + 1) r = some (tlvNextRegs m r) := by simp [locateLoop, hd]
  exact Option.some.inj (h.symm.trans hloop)

/-- The search from a walk in progress stops at the first message the source has in the bytes before it,
and without one exactly when the source has none (rules R170, R171). -/
theorem locateLoop_source {m : Memory} {fuel : Nat} {r r' : TlvRegs} (w : r.Walking)
    (hf : r.lim.toNat ≤ r.cur.toNat + fuel) (h : locateLoop m (fuel + 1) r = some r') :
    firstMessage (srcTlvFrom fuel (r.ahead m)) =
      if r'.atMessage then some (r'.entry m) else none := by
  induction fuel generalizing r with
  | zero =>
    have hstep := tlvNextRegs_atLimit m w hf
    obtain rfl := eq_of_locateLoop_of_done h (by rw [hstep]; rfl)
    rw [hstep]; rfl
  | succ fuel ih =>
    cases tlvNextRegs_source m w with
    | stop invalid done source =>
      obtain rfl := eq_of_locateLoop_of_done h done
      simp [source, firstMessage, TlvRegs.atMessage, invalid]
    | terminator _ done tag source =>
      obtain rfl := eq_of_locateLoop_of_done h done
      rw [source, firstMessage_terminator _ (by exact tag)]
      simp [TlvRegs.atMessage, tag]
    | more valid tag walking lim advance source =>
      rw [source, firstMessage_cons _ (by exact tag)]
      by_cases hm : (tlvNextRegs m r).tag = 0x03#8
      · have hat : (tlvNextRegs m r).atMessage = true := by simp [TlvRegs.atMessage, valid, hm]
        rw [locateLoop, if_pos hat, Option.some.injEq] at h
        subst h
        simp [hat, TlvRegs.entry, hm]
      · have hat : (tlvNextRegs m r).atMessage = false := by simp [TlvRegs.atMessage, hm]
        simp only [locateLoop, hat, walking.running, Bool.false_eq_true, if_false] at h
        rw [← ih walking (by rw [lim]; omega) h]
        exact if_neg hm

/-- Settles O51: LOCATE's search starts with the whole image before it, and stops where the source's
Message Locator (assumption 15) does. -/
theorem locateIsSourceResult : Obligations.LocateIsSourceResult := by
  intro s image hold hlen
  obtain ⟨r, hloop, hexec⟩ := exec_locate s
  rw [hlen] at hloop
  have hfirst := locateLoop_source (s.tlv.walking_start s.bufLen) (by simp [hlen]) hloop
  rw [TlvRegs.ahead_start hold hlen] at hfirst
  refine ⟨_, hexec, ?_⟩
  rw [srcLocate_eq, srcTlvs, hfirst]
  cases hm : r.atMessage with
  | true =>
    have hlen16 : r.len.toNat < 4294967296 := r.len.isLt.trans (by decide)
    simp [locateResult, hm, hlen16, TlvRegs.entry, Memory.Holds]
  | false => simp [locateResult, hm]

/-! ### One REC_NEXT is one step of the source -/

/-- The bytes from the parser's cursor up to its window's end. -/
def RecRegs.ahead (m : Memory) (r : RecRegs) : List Byte := m.span r.cur.toNat r.endOff.toNat

/-- The record in the result registers, its slices taken from BUF. -/
def RecRegs.record (m : Memory) (r : RecRegs) : SrcRecord where
  messageBegin := r.hdr.mb
  messageEnd := r.hdr.me
  chunkFlag := r.hdr.cf
  shortRecord := r.hdr.sr
  idLengthPresent := r.hdr.il
  typeNameFormat := r.hdr.tnf.toNat
  typeField := m.slice r.typeOff.toNat r.typeLen.toNat
  idField := m.slice r.idOff.toNat r.idLen.toNat
  payload := m.slice r.payloadOff.toNat r.payloadLen.toNat

theorem recordOf_eq (s : State) : recordOf s = s.ndef.record s.buf := rfl

/-- A parser that has not ended and whose cursor is inside its window (rule R38). -/
structure RecRegs.Walking (r : RecRegs) : Prop where
  running : r.status.done = false
  inside : r.cur.toNat ≤ r.endOff.toNat

/-- The source's record step over a span is the layout's record at its start, if it fits. -/
theorem srcRecord_span (m : Memory) {p e : Nat} (h : p ≤ e) :
    srcRecord (m.span p e) =
      if recNextAt m p ≤ e then some (recordAt m p, m.span (recNextAt m p) e) else none := by
  rw [Memory.span, srcRecord_slice, show p + (e - p) = e by omega]; rfl

/-- The cursor after a record that fits: the narrowing does not change it. -/
theorem recYieldAt_cur {m : Memory} {r : RecRegs} (h : recNextAt m r.cur.toNat ≤ r.endOff.toNat) :
    (recYieldAt m r).cur.toNat = recNextAt m r.cur.toNat :=
  toNat_toWord (h.trans_lt r.endOff.isLt)

/-- The registers of a record that fits hold the layout's record: no offset is changed by the narrowing. -/
theorem record_recYieldAt {m : Memory} {r : RecRegs}
    (h : recNextAt m r.cur.toNat ≤ r.endOff.toNat) :
    (recYieldAt m r).record m = recordAt m r.cur.toNat := by
  have hend := r.endOff.isLt
  obtain ⟨-, -, hty, hid, hpl⟩ := layout_rises m r.cur.toNat
  have h1 := toNat_toWord (n := recTypeOffAt m r.cur.toNat) (by omega)
  have h2 := toNat_toWord (n := recIdOffAt m r.cur.toNat) (by omega)
  have h3 := toNat_toWord (n := recPayloadOffAt m r.cur.toNat) (by omega)
  simp only [RecRegs.record, recYieldAt, RecRegs.yield_typeOff, RecRegs.yield_idOff,
    RecRegs.yield_payloadOff, h1, h2, h3]
  rfl

/-- What a REC_NEXT from `r` to `r'` and the source have in common: neither has a record, or both have
the same record, the last if ME is set, and the same bytes still before them. -/
inductive RecSourceStep (m : Memory) (r r' : RecRegs) : Prop
  | stop (invalid : r'.status.valid = false) (done : r'.status.done = true)
      (source : srcRecord (r.ahead m) = none)
  | last (valid : r'.status.valid = true) (done : r'.status.done = true)
      (messageEnd : r'.hdr.me = true) (rest : List Byte)
      (source : srcRecord (r.ahead m) = some (r'.record m, rest))
  | more (valid : r'.status.valid = true) (messageEnd : r'.hdr.me = false) (walking : r'.Walking)
      (endOff : r'.endOff = r.endOff) (advance : r.cur.toNat < r'.cur.toNat)
      (source : srcRecord (r.ahead m) = some (r'.record m, r'.ahead m))

/-- The source's record step of a record that fits: the record a yield stores, the bytes that follow it. -/
theorem RecRegs.Walking.source_fits {m : Memory} {r : RecRegs} (w : r.Walking)
    (h : recNextAt m r.cur.toNat ≤ r.endOff.toNat) :
    srcRecord (r.ahead m) = some ((recYieldAt m r).record m, (recYieldAt m r).ahead m) := by
  rw [RecRegs.ahead, srcRecord_span m w.inside, if_pos h, record_recYieldAt h, RecRegs.ahead,
    recYieldAt_cur h]
  rfl

/-- A record that does not fit the window ends both. -/
theorem RecSourceStep.endWith {m : Memory} {r : RecRegs} (w : r.Walking) (c : RecCause)
    (h : r.endOff.toNat < recNextAt m r.cur.toNat) : RecSourceStep m r (r.endWith c) :=
  .stop rfl rfl (by rw [RecRegs.ahead, srcRecord_span m w.inside, if_neg (by omega)])

/-- Every REC_NEXT of a walk in progress is a step of the source (rule R15). -/
theorem recNextRegs_source (m : Memory) {r : RecRegs} (w : r.Walking) :
    RecSourceStep m r (recNextRegs m r) := by
  obtain ⟨hlen, hty, hid, hpo, hnext⟩ := layout_rises m r.cur.toNat
  have step := recNextRegs_step m r
  generalize recNextRegs m r = r' at step
  cases step with
  | ended h => simp [w.running] at h
  | exhausted h hp => exact .endWith w _ (by omega)
  | truncHeader h hp he => exact .endWith w _ (by omega)
  | truncPlen h hp he => exact .endWith w _ (by omega)
  | truncIdLen h hp he => exact .endWith w _ (by omega)
  | truncType h hp he => exact .endWith w _ (by omega)
  | truncId h hp he => exact .endWith w _ (by omega)
  | truncPayload h hp he => exact .endWith w _ he
  | last h he hme => exact .last rfl rfl hme _ (w.source_fits he)
  | more h he hme =>
    have hcur := recYieldAt_cur he
    exact .more rfl hme ⟨h, hcur.trans_le he⟩ rfl (by omega) (w.source_fits he)

/-- A walk at its window's end ends with EXHAUSTED (rule R138 step 1). -/
theorem recNextRegs_atEnd (m : Memory) {r : RecRegs} (w : r.Walking)
    (h : r.endOff.toNat ≤ r.cur.toNat) : recNextRegs m r = r.endWith .exhausted := by
  simp [recNextRegs, w.running, Nat.le_antisymm w.inside h]

/-! ### The record walk -/

theorem srcRecordsFrom_none (fuel : Nat) {bs : List Byte} (h : srcRecord bs = none) :
    srcRecordsFrom fuel bs = [] := by
  cases fuel <;> simp [srcRecordsFrom, h]

theorem srcRecordsFrom_some (fuel : Nat) {bs rest : List Byte} {r : SrcRecord}
    (h : srcRecord bs = some (r, rest)) :
    srcRecordsFrom (fuel + 1) bs = if r.messageEnd then [r] else r :: srcRecordsFrom fuel rest := by
  simp [srcRecordsFrom, h]

/-- A walk in progress yields what the source yields from the bytes before it, and it ends. The block
needs one step more than the source: the one that finds the end. -/
theorem walkRec_source {fuel : Nat} {s : State} (w : s.ndef.Walking)
    (hf : s.ndef.endOff.toNat ≤ s.ndef.cur.toNat + fuel) :
    (walkRec (fuel + 1) s).1 = srcRecordsFrom fuel (s.ndef.ahead s.buf) ∧
    (walkRec (fuel + 1) s).2.ndef.status.done = true := by
  induction fuel generalizing s with
  | zero =>
    rw [walkRec_succ _ _ w.running, recNextRegs_atEnd _ w hf]
    exact ⟨rfl, rfl⟩
  | succ fuel ih =>
    rw [walkRec_succ _ _ w.running]
    cases recNextRegs_source s.buf w with
    | stop invalid done source =>
      simp [invalid, done, walkRec_done, srcRecordsFrom_none _ source]
    | last valid done messageEnd rest source =>
      simp [valid, done, walkRec_done, srcRecordsFrom_some _ source, recordOf_eq, RecRegs.record,
        messageEnd]
    | more valid messageEnd walking endOff advance source =>
      obtain ⟨hlist, hdone⟩ := ih (s := s.clearErr.setNdef (recNextRegs s.buf s.ndef)) walking
        (by simp only [State.setNdef_ndef, endOff]; omega)
      refine ⟨?_, hdone⟩
      rw [srcRecordsFrom_some _ source]
      simp [valid, hlist, recordOf_eq, RecRegs.record, messageEnd]

/-- REC_START over a window inside BUF_LEN puts exactly the window before the walk (rule R137). -/
theorem recStart_window {s : State} (h : s.msg.off.toNat + s.msg.len.toNat ≤ s.bufLen.toNat) :
    (s.ndef.start (windowBase s) (windowEnd s)).cur.toNat = s.msg.off.toNat ∧
    (s.ndef.start (windowBase s) (windowEnd s)).endOff.toNat = s.msg.off.toNat + s.msg.len.toNat := by
  have hlim := s.bufLen.isLt
  have hend : windowEnd s = s.msg.off.toNat + s.msg.len.toNat := Nat.min_eq_left h
  have hbase : windowBase s = s.msg.off.toNat := Nat.min_eq_left (by omega)
  rw [RecRegs.start_cur, RecRegs.start_endOff, hend, hbase]
  exact ⟨toNat_toWord (by omega), toNat_toWord (by omega)⟩

/-- Settles O52: REC_START puts the whole message before the walk, and a walk yields what the source's
Record Parser (assumption 15) yields from the bytes before it. -/
theorem recWalkIsSourceSequence : Obligations.RecWalkIsSourceSequence := by
  intro s message hold hlen hwin
  obtain ⟨hcur, hend⟩ := recStart_window hwin
  rw [hlen] at hend
  have w : (s.ndef.start (windowBase s) (windowEnd s)).Walking := ⟨rfl, by omega⟩
  obtain ⟨hlist, hdone⟩ := walkRec_source (fuel := message.length)
    (s := s.clearErr.setNdef (s.ndef.start (windowBase s) (windowEnd s))) w
    (by simp only [State.setNdef_ndef]; omega)
  have hahead : (s.ndef.start (windowBase s) (windowEnd s)).ahead s.buf = message := by
    rw [RecRegs.ahead, hcur, hend, hold.span_eq]
  exact ⟨_, exec_recStart s, hlist.trans (congrArg (srcRecordsFrom _) hahead), hdone⟩

end Sys2Proof.Machine
end

section
/-! The invariant of the registers (rules R24 to R49, R202, R203): every outcome of a TLV step and of a
record step keeps its part of `State.Inv`, every command keeps the whole, and so does every step. -/

namespace Sys2Proof.Machine

/-! ### The TLV walker -/

/-- The frame of `tag` at `toff`, whose value has `len` bytes at `voff`, has the length form its tag and
its offsets ask for (rules R26, R85, R102). -/
def FrameForm (tag : Byte) (toff len voff : Nat) : LenForm → Prop
  | .none => (tag = 0x00#8 ∨ tag = 0xFE#8) ∧ len = 0 ∧ voff = toff + 1
  | .short => tag ≠ 0x00#8 ∧ tag ≠ 0xFE#8 ∧ len ≤ 254 ∧ voff = toff + 2
  | .extended => tag ≠ 0x00#8 ∧ tag ≠ 0xFE#8 ∧ voff = toff + 4

theorem FrameForm.toff_lt {tag : Byte} {toff len voff : Nat} {fmt : LenForm}
    (h : FrameForm tag toff len voff fmt) : toff < voff := by
  cases fmt with
  | none => obtain ⟨-, -, h⟩ := h; omega
  | short => obtain ⟨-, -, -, h⟩ := h; omega
  | extended => obtain ⟨-, -, h⟩ := h; omega

section
variable {size : Nat} {r : TlvRegs}

/-- The invariant of registers that hold no entry: the clauses on an entry do not apply. -/
theorem TlvRegs.Inv.of_noEntry (valid : r.status.valid = false)
    (result : r.tag = 0 ∧ r.len = 0 ∧ r.toff = 0 ∧ r.voff = 0 ∧ r.status.lfmt = .none)
    (cur : r.cur.toNat ≤ r.lim.toNat) (lim : r.lim.toNat ≤ size)
    (done : r.status.done = true ↔ r.status.endCause ≠ .none)
    (idle : r.status.endCause = .idle → r = TlvRegs.reset)
    (eobTag : r.status.endCause = .eobTag → r.cur = r.lim)
    (count : r.count.toNat ≤ r.cur.toNat) : r.Inv size := by
  have noEntry {P : Prop} (h : r.status.valid = true) : P :=
    absurd (valid.symm.trans h) Bool.false_ne_true
  exact ⟨cur, lim, done, noEntry, noEntry, idle, eobTag, fun _ => result, noEntry, noEntry, count⟩

theorem TlvRegs.Inv.reset : TlvRegs.reset.Inv size :=
  .of_noEntry rfl ⟨rfl, rfl, rfl, rfl, rfl⟩ (Nat.le_refl _) (Nat.zero_le size) (by decide)
    (fun _ => rfl) nofun (Nat.le_refl _)

theorem TlvRegs.Inv.start {lim : Word} (h : lim.toNat ≤ size) : (r.start lim).Inv size :=
  .of_noEntry rfl ⟨rfl, rfl, rfl, rfl, rfl⟩ (by simp) h (by simp) nofun nofun (by simp)

theorem TlvRegs.Inv.noYield (h : r.Inv size) : r.noYield.Inv size :=
  .of_noEntry rfl ⟨rfl, rfl, rfl, rfl, rfl⟩ h.cur_le_lim h.lim_le_size h.done_iff_cause
    (fun hi => by rw [h.idle_is_reset hi]; rfl) h.eobTag_at_lim h.count_le_cur

/-- A walk may end with any cause but NONE and IDLE, and with EOB_TAG at its limit only. -/
theorem TlvRegs.Inv.endWith (h : r.Inv size) {c : TlvCause} (hnone : c ≠ .none) (hidle : c ≠ .idle)
    (htag : c = .eobTag → r.lim.toNat ≤ r.cur.toNat) : (r.endWith c).Inv size :=
  .of_noEntry rfl ⟨rfl, rfl, rfl, rfl, rfl⟩ h.cur_le_lim h.lim_le_size
    ⟨fun _ => hnone, fun _ => rfl⟩ (fun hc => absurd hc hidle)
    (fun hc => BitVec.eq_of_toNat_eq (Nat.le_antisymm h.cur_le_lim (htag hc))) h.count_le_cur

/-- A yield of a frame that fits the limit, where the walk has ended exactly if it is the Terminator. -/
theorem TlvRegs.Inv.yield {tag : Byte} {len voff : Nat} {fmt : LenForm}
    (hsize : r.lim.toNat ≤ size) (hcount : r.count.toNat ≤ r.cur.toNat)
    (hdone : r.status.done = true ↔ tag = 0xFE#8)
    (hcause : r.status.endCause = if r.status.done then .terminator else .none)
    (hlen : len < 2 ^ 16) (hform : FrameForm tag r.cur.toNat len voff fmt)
    (hfit : voff + len ≤ r.lim.toNat) :
    (r.yield tag r.cur.toNat len voff fmt (voff + len)).Inv size := by
  have hlim := r.lim.isLt
  have hp := hform.toff_lt
  have hvoff : (toWord voff).toNat = voff := toNat_toWord (by omega)
  have hcur : (toWord (voff + len)).toNat = voff + len := toNat_toWord (by omega)
  have hl : (BitVec.ofNat 16 len).toNat = len :=
    (BitVec.toNat_ofNat len 16).trans (Nat.mod_eq_of_lt hlen)
  have hadd : (r.count + 1).toNat = r.count.toNat + 1 :=
    BitVec.toNat_add_of_lt (by simp; omega)
  constructor
  case cur_le_lim => rwa [TlvRegs.yield_cur, TlvRegs.yield_lim, hcur]
  case lim_le_size => exact hsize
  case done_iff_cause => cases hd : r.status.done <;> simp [hcause, hd]
  case valid_done_iff_terminator => exact fun _ => hdone
  case valid_done_cause => exact fun _ (hd : r.status.done = true) => by simp [hcause, hd]
  case idle_is_reset => cases hd : r.status.done <;> simp [hcause, hd]
  case eobTag_at_lim => cases hd : r.status.done <;> simp [hcause, hd]
  case no_result => exact nofun
  case value_ends_at_cur =>
    intro _
    rw [TlvRegs.yield_voff, TlvRegs.yield_len, TlvRegs.yield_cur, hvoff, hl, hcur]
  case form =>
    intro _
    cases fmt with
    | none =>
      obtain ⟨ht, rfl, hv⟩ := hform
      exact ⟨ht, rfl, by simpa [hvoff] using hv⟩
    | short => simpa [FrameForm, hvoff, hl] using hform
    | extended => simpa [FrameForm, hvoff] using hform
  case count_le_cur => rw [TlvRegs.yield_count, TlvRegs.yield_cur, hcur, hadd]; omega

/-- A walk in progress has no cause yet (rule R26). -/
theorem TlvRegs.Inv.running_cause (h : r.Inv size) (hd : r.status.done = false) :
    r.status.endCause = .none :=
  not_not.mp fun hc => Bool.false_ne_true (hd.symm.trans (h.done_iff_cause.mpr hc))

/-- A yield, from a walk in progress, of a frame that is not the Terminator. -/
theorem TlvRegs.Inv.yield_running (h : r.Inv size) (hd : r.status.done = false) {tag : Byte}
    {len voff : Nat} {fmt : LenForm} (ht : tag ≠ 0xFE#8) (hlen : len < 2 ^ 16)
    (hform : FrameForm tag r.cur.toNat len voff fmt) (hfit : voff + len ≤ r.lim.toNat) :
    (r.yield tag r.cur.toNat len voff fmt (voff + len)).Inv size :=
  .yield h.lim_le_size h.count_le_cur (by simp [hd, ht]) (by simp [hd, h.running_cause hd]) hlen hform
    hfit

/-- TLV_NEXT keeps the walker's invariant. The Terminator's two effects commute: it is a yield from
registers whose walk has ended. -/
theorem TlvRegs.Inv.next (m : Memory) (h : r.Inv size) : (tlvNextRegs m r).Inv size := by
  have step := tlvNextRegs_step m r
  generalize tlvNextRegs m r = r' at step
  cases step with
  | ended => exact h.noYield
  | noTag _ hp => exact h.endWith (by decide) (by decide) fun _ => hp
  | terminator hd hp =>
    exact .yield (r := r.terminate) (tag := 0xFE#8) (len := 0) h.lim_le_size h.count_le_cur (by simp)
      rfl (by decide) ⟨.inr rfl, rfl, rfl⟩ hp
  | null hd hp =>
    exact h.yield_running (len := 0) hd (by decide) (by decide) ⟨.inl rfl, rfl, rfl⟩ hp
  | noLength | noExtLength | shortPastEnd | extendedPastEnd =>
    exact h.endWith (by decide) (by decide) nofun
  | short g hl hv =>
    have hlen := (m.read (r.cur.toNat + 1)).isLt
    have hne : (m.read (r.cur.toNat + 1)).toNat ≠ 255 := fun he => hl (BitVec.eq_of_toNat_eq he)
    exact h.yield_running g.running g.not_terminator (by omega)
      ⟨g.not_null, g.not_terminator, by omega, rfl⟩ hv
  | extended g hl hv =>
    exact h.yield_running g.running g.not_terminator (m.be16 _).isLt
      ⟨g.not_null, g.not_terminator, rfl⟩ hv

end

/-! ### The message locator -/

theorem MsgRegs.Inv.reset : MsgRegs.reset.Inv := ⟨fun _ => ⟨rfl, rfl⟩, nofun, nofun⟩

/-- No TLV step sets the cause IDLE (rule R202). -/
theorem tlvNextRegs_cause_ne_idle {r : TlvRegs} (m : Memory) (h : r.status.endCause ≠ .idle) :
    (tlvNextRegs m r).status.endCause ≠ .idle := by
  have step := tlvNextRegs_step m r
  generalize tlvNextRegs m r = r' at step
  cases step with
  | ended | null | short | extended => exact h
  | noTag | terminator | noLength | noExtLength | shortPastEnd | extendedPastEnd => exact nofun

/-- What every internal TLV_NEXT of a search keeps, the search keeps. -/
theorem locateLoop_keeps {m : Memory} {P : TlvRegs → Prop} (next : ∀ r, P r → P (tlvNextRegs m r))
    {fuel : Nat} {r r' : TlvRegs} (hr : P r) (h : locateLoop m fuel r = some r') : P r' := by
  induction fuel generalizing r with
  | zero => cases h
  | succ fuel ih =>
    simp only [locateLoop] at h
    split_ifs at h with hm hd
    · exact Option.some.inj h ▸ next r hr
    · exact Option.some.inj h ▸ next r hr
    · exact ih (next r hr) h

/-- LOCATE reports a message, or the end of its walk with the cause of that end (rule R34). -/
theorem MsgRegs.Inv.locateResult {size : Nat} {r : TlvRegs} (h : r.Inv size)
    (hidle : r.status.endCause ≠ .idle) (hstop : r.atMessage = true ∨ r.status.done = true) :
    (locateResult r).Inv := by
  unfold Machine.locateResult
  split_ifs with hm
  · exact ⟨nofun, fun _ => rfl, nofun⟩
  · have hcause : r.status.endCause ≠ .none := h.done_iff_cause.mp (hstop.resolve_left hm)
    exact ⟨nofun, nofun, fun _ _ => ⟨hcause, hidle⟩⟩

/-! ### The record parser -/

section
variable {size : Nat} {r : RecRegs}

/-- The invariant of registers that hold no record: the clauses on a record do not apply. -/
theorem RecRegs.Inv.of_noRecord (valid : r.status.valid = false)
    (result : r.hdr = RecHdr.zero ∧ r.typeLen = 0 ∧ r.idLen = 0 ∧ r.payloadLen = 0 ∧
      r.roff = 0 ∧ r.typeOff = 0 ∧ r.idOff = 0 ∧ r.payloadOff = 0)
    (base : r.base.toNat ≤ r.cur.toNat) (cur : r.cur.toNat ≤ r.endOff.toNat)
    (endOff : r.endOff.toNat ≤ size) (done : r.status.done = true ↔ r.status.endCause ≠ .none)
    (idle : r.status.endCause = .idle → r = RecRegs.reset)
    (exhausted : r.status.endCause = .exhausted → r.cur = r.endOff)
    (truncHeader : r.status.endCause = .truncHeader → r.cur.toNat + 1 = r.endOff.toNat)
    (count : r.base.toNat + 3 * r.count.toNat ≤ r.cur.toNat) : r.Inv size := by
  have noRecord {P : Prop} (h : r.status.valid = true) : P :=
    absurd (valid.symm.trans h) Bool.false_ne_true
  have hdr : r.hdr = unpackHeader r.hdr.raw := by rw [result.1]; decide
  exact ⟨base, cur, endOff, done, noRecord, noRecord, idle, exhausted, truncHeader, hdr,
    fun _ => result, noRecord, noRecord, noRecord, noRecord, noRecord, noRecord, count⟩

theorem RecRegs.Inv.reset : RecRegs.reset.Inv size :=
  .of_noRecord rfl ⟨rfl, rfl, rfl, rfl, rfl, rfl, rfl, rfl⟩ (Nat.le_refl _) (Nat.le_refl _)
    (Nat.zero_le size) (by decide) (fun _ => rfl) nofun nofun (Nat.le_refl _)

/-- REC_START opens a window that ends inside BUF. -/
theorem RecRegs.Inv.start {base endOff : Nat} (hbase : base ≤ endOff) (hsize : endOff ≤ size)
    (hend : endOff < 2 ^ 32) : (r.start base endOff).Inv size := by
  have hb : (toWord base).toNat = base := toNat_toWord (by omega)
  have he : (toWord endOff).toNat = endOff := toNat_toWord hend
  refine .of_noRecord rfl ⟨rfl, rfl, rfl, rfl, rfl, rfl, rfl, rfl⟩ (Nat.le_refl _) ?_ ?_ (by simp)
    nofun nofun nofun (Nat.le_refl _)
  · rwa [RecRegs.start_cur, RecRegs.start_endOff, hb, he]
  · rwa [RecRegs.start_endOff, he]

theorem RecRegs.Inv.noYield (h : r.Inv size) : r.noYield.Inv size :=
  .of_noRecord rfl ⟨rfl, rfl, rfl, rfl, rfl, rfl, rfl, rfl⟩ h.base_le_cur h.cur_le_end h.end_le_size
    h.done_iff_cause (fun hi => by rw [h.idle_is_reset hi]; rfl) h.exhausted_at_end
    h.truncHeader_one_left h.count_le

/-- A walk may end with any cause but NONE and IDLE, with EXHAUSTED only at the window's end, and with
TRUNC_HEADER only one byte before it. -/
theorem RecRegs.Inv.endWith (h : r.Inv size) {c : RecCause} (hnone : c ≠ .none) (hidle : c ≠ .idle)
    (hexh : c = .exhausted → r.cur.toNat = r.endOff.toNat)
    (htrunc : c = .truncHeader → r.cur.toNat + 1 = r.endOff.toNat) : (r.endWith c).Inv size :=
  .of_noRecord rfl ⟨rfl, rfl, rfl, rfl, rfl, rfl, rfl, rfl⟩ h.base_le_cur h.cur_le_end h.end_le_size
    ⟨fun _ => hnone, fun _ => rfl⟩ (fun hc => absurd hc hidle)
    (fun hc => BitVec.eq_of_toNat_eq (hexh hc)) htrunc h.count_le

/-- A record without IL has no id length (rule R134). -/
theorem recIdLenAt_of_il_false {m : Memory} {p : Nat} (h : (recHeaderAt m p).il = false) :
    recIdLenAt m p = 0 := by simp [recIdLenAt, h]

/-- A short record's payload length is one byte (rule R132). -/
theorem recPayloadLenAt_le_of_sr {m : Memory} {p : Nat} (h : (recHeaderAt m p).sr = true) :
    (recPayloadLenAt m p).toNat ≤ 255 := by
  have hbyte := (m.read (p + 2)).isLt
  have hlen : (recPayloadLenAt m p).toNat = (m.read (p + 2)).toNat := by
    rw [recPayloadLenAt, if_pos h]; exact BitVec.toNat_setWidth_of_le (by decide)
  omega

/-- A yield of the record at the cursor, where it fits the window and the walk has ended exactly if it is
an ME record. -/
theorem RecRegs.Inv.yieldAt {m : Memory} (hsize : r.endOff.toNat ≤ size)
    (hcount : r.base.toNat + 3 * r.count.toNat ≤ r.cur.toNat)
    (hdone : r.status.done = (recHeaderAt m r.cur.toNat).me)
    (hcause : r.status.endCause = if r.status.done then .messageEnd else .none)
    (hfit : recNextAt m r.cur.toNat ≤ r.endOff.toNat) : (recYieldAt m r).Inv size := by
  have hend := r.endOff.isLt
  obtain ⟨hlen, hty, hid, hpo, hnext⟩ := layout_rises m r.cur.toNat
  have hcur : (recYieldAt m r).cur.toNat = recNextAt m r.cur.toNat := recYieldAt_cur hfit
  have hroff : (recYieldAt m r).roff.toNat = r.cur.toNat := toNat_toWord (by omega)
  have htype : (recYieldAt m r).typeOff.toNat = recTypeOffAt m r.cur.toNat := toNat_toWord (by omega)
  have hidOff : (recYieldAt m r).idOff.toNat = recIdOffAt m r.cur.toNat := toNat_toWord (by omega)
  have hpay : (recYieldAt m r).payloadOff.toNat = recPayloadOffAt m r.cur.toNat :=
    toNat_toWord (by omega)
  have hadd : (recYieldAt m r).count.toNat = r.count.toNat + 1 :=
    BitVec.toNat_add_of_lt (by simp; omega)
  have hbase : (recYieldAt m r).base = r.base := rfl
  have hstatus : (recYieldAt m r).status = { r.status with valid := true } := rfl
  constructor
  case base_le_cur => rw [hcur, hbase]; omega
  case cur_le_end => rw [hcur]; exact hfit
  case end_le_size => exact hsize
  case done_iff_cause => cases hd : r.status.done <;> simp [hstatus, hcause, hd]
  case valid_done_iff_me => exact fun _ => iff_of_eq (congrArg (· = true) hdone)
  case valid_done_cause => exact fun _ (hd : r.status.done = true) => by simp [hstatus, hcause, hd]
  case idle_is_reset => cases hd : r.status.done <;> simp [hstatus, hcause, hd]
  case exhausted_at_end => cases hd : r.status.done <;> simp [hstatus, hcause, hd]
  case truncHeader_one_left => cases hd : r.status.done <;> simp [hstatus, hcause, hd]
  case hdr_unpacked => rfl
  case no_result => exact nofun
  case type_follows_lengths => intro _; rw [htype, hroff]; rfl
  case id_follows_type => intro _; rw [hidOff, htype]; rfl
  case payload_follows_id => intro _; rw [hpay, hidOff]; rfl
  case payload_ends_at_cur => intro _; rw [hpay, hcur]; rfl
  case no_id_length => exact fun _ => recIdLenAt_of_il_false
  case short_payload => exact fun _ => recPayloadLenAt_le_of_sr
  case count_le => rw [hcur, hbase, hadd]; omega

/-- A walk in progress has no cause yet (rule R37). -/
theorem RecRegs.Inv.running_cause (h : r.Inv size) (hd : r.status.done = false) :
    r.status.endCause = .none :=
  not_not.mp fun hc => Bool.false_ne_true (hd.symm.trans (h.done_iff_cause.mpr hc))

/-- REC_NEXT keeps the parser's invariant. The ME record's two effects commute: it is a yield from
registers whose walk has ended. -/
theorem RecRegs.Inv.next (m : Memory) (h : r.Inv size) : (recNextRegs m r).Inv size := by
  have hcur := h.cur_le_end
  have step := recNextRegs_step m r
  generalize recNextRegs m r = r' at step
  cases step with
  | ended => exact h.noYield
  | exhausted _ hp => exact h.endWith (by decide) (by decide) (fun _ => hp) nofun
  | truncHeader _ hp he => exact h.endWith (by decide) (by decide) nofun fun _ => by omega
  | truncPlen | truncIdLen | truncType | truncId | truncPayload =>
    exact h.endWith (by decide) (by decide) nofun nofun
  | last _ he hme => exact .yieldAt (r := r.finish) h.end_le_size h.count_le hme.symm rfl he
  | more hd he hme =>
    exact .yieldAt h.end_le_size h.count_le (hd.trans hme.symm) (by simp [hd, h.running_cause hd]) he

end

/-! ### Commands, host accesses and steps -/

section
variable {s : State} (h : s.Inv)
include h

theorem State.Inv.setPending (p : List Input) : (s.setPending p).Inv := { h with }

theorem State.Inv.reply (v : ReadValue) : (s.reply v).Inv := { h with }

theorem State.Inv.setCmdErr (e : Bool) : (s.setCmdErr e).Inv := { h with }

theorem State.Inv.setTlv {r : TlvRegs} (hr : r.Inv s.cfgBufSize.toNat) : (s.setTlv r).Inv :=
  { h with tlv := hr }

theorem State.Inv.setMsg {r : MsgRegs} (hr : r.Inv) : (s.setMsg r).Inv := { h with msg := hr }

theorem State.Inv.setNdef {r : RecRegs} (hr : r.Inv s.cfgBufSize.toNat) : (s.setNdef r).Inv :=
  { h with ndef := hr }

theorem State.Inv.setBufLen {v : Word} (hv : v.toNat ≤ s.cfgBufSize.toNat) : (s.setBufLen v).Inv :=
  { h with bufLen_le_size := hv }

/-- A host byte write keeps BUF in its canonical form and inside BUF_SIZE (rules R68, R188). -/
theorem State.Inv.hostWriteBuf (a : Nat) (b : Byte) : (hostWriteBuf s a b).Inv := by
  unfold Machine.hostWriteBuf
  split_ifs with ha
  · refine { h with buf_wf := Memory.wf_write a b h.buf_wf, buf_inside := fun c hc => ?_ }
    obtain rfl | hc := mem_insertCell hc
    · exact ha
    · exact h.buf_inside c hc
  · exact h

theorem State.Inv.writeReg (v : Word) (r : Reg) : (writeReg s v r).Inv := by
  rcases writeReg_cases s v r with e | e | e | e <;> rw [e]
  · exact h
  · exact h.setBufLen (clampLen_le s v)
  · exact h.setMsg { h.msg with }
  · exact h.setMsg { h.msg with }

theorem State.Inv.resetRegs : s.resetRegs.Inv where
  size_pos := h.size_pos
  buf_wf := h.buf_wf
  buf_inside := h.buf_inside
  bufLen_le_size := Nat.zero_le _
  tlv := .reset
  msg := .reset
  ndef := .reset

theorem State.Inv.hardReset : s.hardReset.Inv :=
  { h.resetRegs with buf_wf := s.buf.wf_redraw, buf_inside := nofun }

/-- Every command keeps the machine's invariant. -/
theorem State.Inv.exec {i : Instr} {t : State} (ht : exec i s = .next t) : t.Inv := by
  have hclear : s.clearErr.Inv := h.setCmdErr false
  cases i with
  | nop => cases ht; exact hclear
  | tlvStart => cases ht; exact hclear.setTlv (.start h.bufLen_le_size)
  | tlvNext => cases ht; exact hclear.setTlv (h.tlv.next _)
  | recStart =>
    cases ht
    have hend : windowEnd s ≤ s.bufLen.toNat := Nat.min_le_right _ _
    exact hclear.setNdef (.start (Nat.min_le_right _ _) (hend.trans h.bufLen_le_size)
      (hend.trans_lt s.bufLen.isLt))
  | recNext => cases ht; exact hclear.setNdef (h.ndef.next _)
  | locate =>
    obtain ⟨r, hloop, hexec⟩ := exec_locate s
    cases hexec.symm.trans ht
    have hr := locateLoop_keeps (P := TlvRegs.Inv s.cfgBufSize.toNat) (fun _ hr => hr.next _)
      (.start h.bufLen_le_size) hloop
    have hidle := locateLoop_keeps (P := (·.status.endCause ≠ .idle))
      (fun _ => tlvNextRegs_cause_ne_idle _) (by simp) hloop
    exact (hclear.setTlv hr).setMsg (.locateResult hr hidle (locateLoop_stop hloop))
  | softReset => cases ht; exact h.resetRegs

end

/-- Settles O49: by what a step can do (`step_cases`), each part of a step keeping the invariant. -/
theorem stepKeepsInvariant : Obligations.StepKeepsInvariant := by
  intro s t h hstep
  rcases step_cases hstep with ⟨-, rfl⟩ | ⟨rest, -, rfl⟩ | ⟨w, rest, -, hcmd⟩ | ⟨a, rest, -, -, hacc⟩
  · exact h
  · exact (h.setPending rest).hardReset
  · rcases hcmd with ⟨i, -, hexec⟩ | ⟨e, -, rfl⟩
    · exact (h.setPending rest).exec hexec
    · exact (h.setPending rest).setCmdErr true
  · rcases hacc with ⟨v, rfl⟩ | ⟨k, b, -, rfl⟩ | rfl | ⟨v, r, rfl⟩
    · exact (h.setPending rest).reply v
    · exact (h.setPending rest).hostWriteBuf k b
    · exact h.setPending rest
    · exact (h.setPending rest).writeReg v r

end Sys2Proof.Machine
end

section
/-! CMD_ERR and MSG_STATUS (rules R23, R34, R204): what a step can do to them. -/

namespace Sys2Proof

theorem decode_encode (i : Instr) : decode (encode i) = .ok i := by cases i <;> rfl

/-- A word that decodes is the word of its command (rules R80, R83). -/
theorem eq_encode_of_decode {w : Word} {i : Instr} (h : decode w = .ok i) : w = encode i := by
  rw [decode_eq] at h
  split_ifs at h <;> cases h <;> assumption

/-- A word that does not decode is no command's word. -/
theorem ne_encode_of_decode {w : Word} {e : DecodeError} (h : decode w = .error e) (i : Instr) :
    w ≠ encode i := by
  rintro rfl
  rw [decode_encode] at h
  cases h

namespace Machine

/-! ### What commands and host writes do to them -/

/-- Every command clears CMD_ERR (rule R182). -/
theorem exec_cmdErr {i : Instr} {s t : State} (h : exec i s = .next t) : t.cmdErr = false := by
  cases i with
  | locate =>
    obtain ⟨r, -, hr⟩ := exec_locate s
    cases hr.symm.trans h; rfl
  | nop | tlvStart | tlvNext | recStart | recNext | softReset => cases h; rfl

/-- A command that is neither LOCATE nor SOFT_RESET leaves the message registers (rule R34). -/
theorem exec_msg {i : Instr} {s t : State} (h : exec i s = .next t) (hl : i ≠ .locate)
    (hr : i ≠ .softReset) : t.msg = s.msg := by
  cases i with
  | locate => contradiction
  | softReset => contradiction
  | nop | tlvStart | tlvNext | recStart | recNext => cases h; rfl

@[simp] theorem hostWriteBuf_cmdErr (s : State) (a : Nat) (b : Byte) :
    (hostWriteBuf s a b).cmdErr = s.cmdErr := by unfold hostWriteBuf; split <;> rfl

@[simp] theorem hostWriteBuf_msg (s : State) (a : Nat) (b : Byte) :
    (hostWriteBuf s a b).msg = s.msg := by unfold hostWriteBuf; split <;> rfl

/-- No register write changes CMD_ERR: GSTATUS is read-only (rule R23). -/
@[simp] theorem writeReg_cmdErr (s : State) (v : Word) (r : Reg) :
    (writeReg s v r).cmdErr = s.cmdErr := by
  rcases writeReg_cases s v r with e | e | e | e <;> rw [e] <;> rfl

/-- No register write changes MSG_STATUS: it is read-only (rule R34). -/
@[simp] theorem writeReg_msgStatus (s : State) (v : Word) (r : Reg) :
    (writeReg s v r).msg.status = s.msg.status := by
  rcases writeReg_cases s v r with e | e | e | e <;> rw [e] <;> rfl

/-- Everything a step can do to CMD_ERR and MSG_STATUS: nothing, unless it is a hardware reset, a command
or an illegal command. -/
theorem step_status_cases {s t : State} (h : step s = .next t) :
    (t.cmdErr = s.cmdErr ∧ t.msg.status = s.msg.status ∧ ∀ w rest, ¬ s.WritesCmd w rest) ∨
    (∃ rest, s.host.pending = .hardReset :: rest) ∨
    (∃ i rest, s.WritesCmd (encode i) rest ∧ exec i (s.setPending rest) = .next t) ∨
    (∃ w rest, s.WritesCmd w rest ∧ (∀ i, w ≠ encode i) ∧ t = illegalCommand (s.setPending rest)) := by
  rcases step_cases h with ⟨hp, rfl⟩ | ⟨rest, hp, -⟩ | ⟨w, rest, hp, hcmd⟩ | ⟨a, rest, hp, ha, hacc⟩
  · exact .inl ⟨rfl, rfl, fun w rest hw => nomatch hp.symm.trans hw⟩
  · exact .inr (.inl ⟨rest, hp⟩)
  · rcases hcmd with ⟨i, hd, hexec⟩ | ⟨e, hd, ht⟩
    · obtain rfl := eq_encode_of_decode hd
      exact .inr (.inr (.inl ⟨i, rest, hp, hexec⟩))
    · exact .inr (.inr (.inr ⟨w, rest, hp, ne_encode_of_decode hd, ht⟩))
  · obtain ⟨herr, hmsg⟩ : t.cmdErr = s.cmdErr ∧ t.msg.status = s.msg.status := by
      rcases hacc with ⟨v, rfl⟩ | ⟨k, b, -, rfl⟩ | rfl | ⟨v, r, rfl⟩ <;> simp
    refine .inl ⟨herr, hmsg, fun w rest' hw => ?_⟩
    cases hp.symm.trans hw
    exact ha w rfl

theorem State.WritesCmd.unique {s : State} {w w' : Word} {rest rest' : List Input}
    (h : s.WritesCmd w rest) (h' : s.WritesCmd w' rest') : w = w' := by
  cases h.symm.trans h'; rfl

/-- A pending hardware reset is no write to CMD. -/
theorem State.WritesCmd.not_hardReset {s : State} {w : Word} {rest rest' : List Input}
    (h : s.WritesCmd w rest) : s.host.pending ≠ .hardReset :: rest' := fun h' =>
  nomatch h.symm.trans h'

/-! ### The statements -/

/-- Settles O45: a command clears CMD_ERR, an illegal one sets it, and no other step but a hardware reset
(assumption 12) writes it. -/
theorem cmdErrTellsLastCmdWrite : Obligations.CmdErrTellsLastCmdWrite := by
  refine ⟨rfl, fun s t h => ?_⟩
  rcases step_status_cases h with
    ⟨herr, -, hno⟩ | ⟨rest, hp⟩ | ⟨i, rest, hw, hexec⟩ | ⟨w, rest, hw, hill, rfl⟩
  · exact ⟨fun w rest hw => absurd hw (hno w rest), fun _ _ => herr⟩
  · exact ⟨fun w rest' hw => absurd hp hw.not_hardReset, fun _ hno => absurd hp (hno rest)⟩
  · refine ⟨fun w rest' hw' => ?_, fun hno => absurd hw (hno _ _)⟩
    rw [hw'.unique hw, exec_cmdErr hexec]
    exact ⟨nofun, fun hill => absurd rfl (hill i)⟩
  · refine ⟨fun w' rest' hw' => ?_, fun hno => absurd hw (hno _ _)⟩
    rw [hw'.unique hw]
    exact ⟨fun _ => hill, fun _ => rfl⟩

/-- Settles O47: of the steps that may touch MSG_STATUS, an illegal command and every command but LOCATE
and SOFT_RESET leave it; a hardware reset (assumption 12) is the third kind of step the statement names. -/
theorem msgStatusOnlyByLocate : Obligations.MsgStatusOnlyByLocate := by
  intro s t h hne
  rcases step_status_cases h with
    ⟨-, hmsg, -⟩ | ⟨rest, hp⟩ | ⟨i, rest, hw, hexec⟩ | ⟨w, rest, -, -, rfl⟩
  · exact absurd hmsg hne
  · exact ⟨rest, .inl hp⟩
  · refine ⟨rest, .inr ⟨i, hw, ?_⟩⟩
    by_contra hother
    obtain ⟨hl, hr⟩ := not_or.mp hother
    exact hne (by rw [exec_msg hexec hl hr, State.setPending_msg])
  · exact absurd rfl hne

end Machine
end Sys2Proof
end

section
/-! The status and header registers as words (rules R23, R26, R34, R37, R40): a word is built from its
fields from bit 0 upwards, and each field adds its value at its place. -/

namespace Sys2Proof.Machine

/-- The word `x` has the value `n` and no bit at or above bit `k`. -/
structure PackedBelow (k : Nat) (x : Word) (n : Nat) : Prop where
  value : x.toNat = n
  bound : n < 2 ^ k

/-- A `w`-bit number above `pos` bits takes `pos + w` bits. -/
theorem add_mul_two_pow_lt {w n pos : Nat} (v : BitVec w) (hn : n < 2 ^ pos) :
    n + v.toNat * 2 ^ pos < 2 ^ (pos + w) :=
  calc n + v.toNat * 2 ^ pos < 2 ^ pos + v.toNat * 2 ^ pos := by omega
    _ = (v.toNat + 1) * 2 ^ pos := by rw [Nat.succ_mul, Nat.add_comm]
    _ ≤ 2 ^ w * 2 ^ pos := Nat.mul_le_mul_right _ v.isLt
    _ = 2 ^ (pos + w) := by rw [← Nat.pow_add, Nat.add_comm]

theorem field_toNat {w : Nat} (v : BitVec w) {pos : Nat} (h : pos + w ≤ 32) :
    (field v pos).toNat = v.toNat * 2 ^ pos := by
  have hv : v.toNat * 2 ^ pos < 2 ^ 32 := by
    have hlt := add_mul_two_pow_lt v (Nat.two_pow_pos pos)
    have hle : 2 ^ (pos + w) ≤ 2 ^ 32 := Nat.pow_le_pow_right (by decide) h
    omega
  rw [field, BitVec.toNat_shiftLeft, BitVec.toNat_setWidth_of_le (by omega), Nat.shiftLeft_eq,
    Nat.mod_eq_of_lt hv]

theorem PackedBelow.field_zero {w : Nat} (v : BitVec w) (h : w ≤ 32) :
    PackedBelow w (field v 0) v.toNat :=
  ⟨by simpa using field_toNat v (pos := 0) (by omega), v.isLt⟩

/-- A field above all the bits of a word adds its value at its place. -/
theorem PackedBelow.or_field {k w : Nat} {x : Word} {n : Nat} (hx : PackedBelow k x n) (v : BitVec w)
    {pos : Nat} (hk : k ≤ pos) (hw : pos + w ≤ 32) :
    PackedBelow (pos + w) (x ||| field v pos) (n + v.toNat * 2 ^ pos) := by
  have hn : n < 2 ^ pos := hx.bound.trans_le (Nat.pow_le_pow_right (by decide) hk)
  refine ⟨?_, add_mul_two_pow_lt v hn⟩
  rw [BitVec.toNat_or, hx.value, field_toNat v hw, Nat.or_comm, Nat.mul_comm,
    ← Nat.two_pow_add_eq_or_of_lt hn, Nat.add_comm]

theorem gstatusWord_toNat (e : Bool) : (gstatusWord e).toNat = e.toNat := by
  simpa [gstatusWord] using (PackedBelow.field_zero (BitVec.ofBool e) (by decide)).value

theorem TlvStatus.word_toNat (t : TlvStatus) :
    t.word.toNat = t.valid.toNat + t.done.toNat * 2 + t.lfmt.code.toNat * 4 +
      t.endCause.code.toNat * 16 := by
  have h := PackedBelow.field_zero (BitVec.ofBool t.valid) (by decide)
    |>.or_field (BitVec.ofBool t.done) (pos := 1) (by decide) (by decide)
    |>.or_field t.lfmt.code (pos := 2) (by decide) (by decide)
    |>.or_field t.endCause.code (pos := 4) (by decide) (by decide)
  simpa [TlvStatus.word] using h.value

/-- Two flags in bits 0 and 1 and a cause in bits 7 to 4, as MSG_STATUS and REC_STATUS have them. -/
theorem flagsAndCause_toNat (a b : Bool) (c : BitVec 4) :
    (field (BitVec.ofBool a) 0 ||| field (BitVec.ofBool b) 1 ||| field c 4).toNat =
      a.toNat + b.toNat * 2 + c.toNat * 16 := by
  have h := PackedBelow.field_zero (BitVec.ofBool a) (by decide)
    |>.or_field (BitVec.ofBool b) (pos := 1) (by decide) (by decide)
    |>.or_field c (pos := 4) (by decide) (by decide)
  simpa using h.value

theorem MsgStatus.word_toNat (t : MsgStatus) :
    t.word.toNat = t.found.toNat + t.ran.toNat * 2 + t.nfCause.code.toNat * 16 :=
  flagsAndCause_toNat _ _ _

theorem RecStatus.word_toNat (t : RecStatus) :
    t.word.toNat = t.valid.toNat + t.done.toNat * 2 + t.endCause.code.toNat * 16 :=
  flagsAndCause_toNat _ _ _

theorem RecHdr.word_toNat (r : RecHdr) :
    r.word.toNat = r.raw.toNat + r.mb.toNat * 2 ^ 8 + r.me.toNat * 2 ^ 9 + r.cf.toNat * 2 ^ 10 +
      r.sr.toNat * 2 ^ 11 + r.il.toNat * 2 ^ 12 + r.tnf.toNat * 2 ^ 16 := by
  have h := PackedBelow.field_zero r.raw (by decide)
    |>.or_field (BitVec.ofBool r.mb) (pos := 8) (by decide) (by decide)
    |>.or_field (BitVec.ofBool r.me) (pos := 9) (by decide) (by decide)
    |>.or_field (BitVec.ofBool r.cf) (pos := 10) (by decide) (by decide)
    |>.or_field (BitVec.ofBool r.sr) (pos := 11) (by decide) (by decide)
    |>.or_field (BitVec.ofBool r.il) (pos := 12) (by decide) (by decide)
    |>.or_field r.tnf (pos := 16) (by decide) (by decide)
  simpa [RecHdr.word] using h.value

/-- Settles O43: the codes are those of the tables of R26, R202 and R203; each register's word is the sum
of its fields at their places. -/
theorem statusWordLayout : Obligations.StatusWordLayout := by
  refine ⟨by decide, by decide, by decide, fun s => ?_⟩
  exact ⟨gstatusWord_toNat _, TlvStatus.word_toNat _, MsgStatus.word_toNat _, RecStatus.word_toNat _,
    RecHdr.word_toNat _⟩

end Sys2Proof.Machine
end

section
/-! Who writes BUF, what the block reads of it, and what the walkers' commands leave alone (rules R60, R62,
R104, R105, R137, R138, R147, R188). -/

namespace Sys2Proof.Machine

/-! ### What REC_NEXT depends on -/

/-- Two record parsers stand at the same place of a walk: what a record step reads of its registers. -/
structure RecRegs.SamePlace (r r' : RecRegs) : Prop where
  cur : r.cur = r'.cur
  endOff : r.endOff = r'.endOff
  done : r.status.done = r'.status.done

/-- Two record parsers show the same cursor, results, VALID and DONE; the same END_CAUSE if `sameCause`. -/
structure RecRegs.SameOutcome (sameCause : Prop) (y y' : RecRegs) : Prop where
  cur : y.cur = y'.cur
  hdr : y.hdr = y'.hdr
  typeLen : y.typeLen = y'.typeLen
  idLen : y.idLen = y'.idLen
  payloadLen : y.payloadLen = y'.payloadLen
  roff : y.roff = y'.roff
  typeOff : y.typeOff = y'.typeOff
  idOff : y.idOff = y'.idOff
  payloadOff : y.payloadOff = y'.payloadOff
  valid : y.status.valid = y'.status.valid
  done : y.status.done = y'.status.done
  endCause : sameCause → y.status.endCause = y'.status.endCause

section
variable {r r' : RecRegs} (h : r.SamePlace r')
include h

theorem RecRegs.SamePlace.noYield :
    RecRegs.SameOutcome (r.status.endCause = r'.status.endCause) r.noYield r'.noYield := by
  constructor <;> simp [h.cur, h.done]

theorem RecRegs.SamePlace.endWith {sameCause : Prop} (c : RecCause) :
    RecRegs.SameOutcome sameCause (r.endWith c) (r'.endWith c) := by
  constructor <;> simp [h.cur]

/-- Steps 6 to 10 of rule R138, the yield among them, use the registers of the walk's place only. -/
theorem RecRegs.SamePlace.recFields (header tl il : Byte) (pl : Word) (p q e : Nat) :
    RecRegs.SameOutcome (r.status.endCause = r'.status.endCause)
      (recFields r header tl il pl p q e) (recFields r' header tl il pl p q e) := by
  unfold Machine.recFields
  dsimp only
  split_ifs
  · exact h.endWith _
  · exact h.endWith _
  · exact h.endWith _
  · constructor <;> simp
  · constructor <;> simp [h.done]

theorem RecRegs.SamePlace.recLengths (m : Memory) (p e : Nat) :
    RecRegs.SameOutcome (r.status.endCause = r'.status.endCause)
      (recLengths m r p e) (recLengths m r' p e) := by
  unfold Machine.recLengths
  dsimp only
  cases decodePayloadLength m (p + 2) e (unpackHeader (m.read p)).sr with
  | none => exact h.endWith _
  | some len =>
    dsimp only
    cases decodeIdLength m len.2 e (unpackHeader (m.read p)).il with
    | none => exact h.endWith _
    | some idLen => exact h.recFields ..

/-- Over one memory, a record step's outcome follows from the walk's place. -/
theorem RecRegs.SamePlace.recNextRegs (m : Memory) :
    RecRegs.SameOutcome (r.status.endCause = r'.status.endCause)
      (recNextRegs m r) (recNextRegs m r') := by
  unfold Machine.recNextRegs
  rw [← h.done, ← h.cur, ← h.endOff]
  split_ifs
  · exact h.noYield
  · exact h.endWith _
  · exact h.endWith _
  · exact h.recLengths ..

end

/-- Settles O40: the two steps are the same over the first state's BUF, since they start at the same place,
and the second step may be taken over that BUF, since it reads the window only. -/
theorem recNextReadsOnlyWindow : Obligations.RecNextReadsOnlyWindow := by
  intro s s' hcur hend hdone hagree
  have window : recNextRegs s'.buf s'.ndef = recNextRegs s.buf s'.ndef :=
    (recNextRegs_congr (hcur ▸ hend ▸ hagree)).symm
  have same := RecRegs.SamePlace.recNextRegs ⟨hcur, hend, hdone⟩ s.buf
  refine ⟨_, _, exec_recNext s, exec_recNext s', ?_⟩
  simp only [State.setNdef_ndef, window]
  exact ⟨same.cur, same.hdr, same.typeLen, same.idLen, same.payloadLen, same.roff, same.typeOff,
    same.idOff, same.payloadOff, same.valid, same.done, same.endCause⟩

/-! ### What a step can do to BUF -/

/-- No register write changes BUF: it lies in a space of its own (rules R60, R185). -/
@[simp] theorem writeReg_buf (s : State) (v : Word) (r : Reg) : (writeReg s v r).buf = s.buf := by
  rcases writeReg_cases s v r with e | e | e | e <;> rw [e] <;> rfl

/-- A host byte write stores its byte, or is ignored past BUF_SIZE (rule R188). -/
theorem hostWriteBuf_buf (s : State) (k : Nat) (b : Byte) :
    (hostWriteBuf s k b).buf = s.buf ∨ (hostWriteBuf s k b).buf = s.buf.write k b := by
  unfold hostWriteBuf
  split
  · exact .inr rfl
  · exact .inl rfl

/-- Everything a step can do to BUF: nothing, a hardware reset's new draw, or one host byte write. -/
theorem step_buf_cases {s t : State} (h : step s = .next t) :
    t.buf = s.buf ∨
    (∃ rest, s.host.pending = .hardReset :: rest ∧ t.buf = s.buf.redraw) ∨
    ∃ k b rest, s.host.pending = .access (.bufWrite k b) :: rest ∧ t.buf = s.buf.write k b := by
  rcases step_cases h with ⟨-, rfl⟩ | ⟨rest, hp, rfl⟩ | ⟨w, rest, -, hcmd⟩ | ⟨a, rest, hp, -, hacc⟩
  · exact .inl rfl
  · exact .inr (.inl ⟨rest, hp, rfl⟩)
  · rcases hcmd with ⟨i, -, hexec⟩ | ⟨e, -, rfl⟩
    · obtain ⟨hbuf, -, -⟩ := exec_frame hexec
      exact .inl hbuf
    · exact .inl rfl
  · rcases hacc with ⟨v, rfl⟩ | ⟨k, b, rfl, rfl⟩ | rfl | ⟨v, r, rfl⟩
    · exact .inl rfl
    · exact (hostWriteBuf_buf (s.setPending rest) k b).imp id fun hw => .inr ⟨k, b, rest, hp, hw⟩
    · exact .inl rfl
    · exact .inl (writeReg_buf ..)

/-- Settles O44: a host byte write changes the byte at its own offset only; the other step that touches BUF
is the hardware reset (assumption 12). -/
theorem onlyHostWritesBuf : Obligations.OnlyHostWritesBuf := by
  intro s t a h hne
  rcases step_buf_cases h with hbuf | ⟨rest, hp, -⟩ | ⟨k, b, rest, hp, hbuf⟩
  · exact absurd (by rw [hbuf]) hne
  · exact ⟨rest, .inl hp⟩
  · obtain rfl : a = k := by
      by_contra hak
      exact hne (by rw [hbuf, Memory.read_write_other _ _ hak])
    exact ⟨rest, .inr (by rw [hp, hbuf, Memory.read_write_same])⟩

/-! ### What the walkers' commands leave alone -/

/-- Settles O28: TLV_START and TLV_NEXT write CMD_ERR and the TLV walker's registers; a TLV step keeps the
limit. -/
theorem tlvCommandsFrame : Obligations.TlvCommandsFrame := by
  rintro i s (rfl | rfl)
  · exact ⟨_, exec_tlvStart s, fun _ => rfl, rfl, rfl, rfl, rfl, rfl, nofun⟩
  · exact ⟨_, exec_tlvNext s, fun _ => rfl, rfl, rfl, rfl, rfl, rfl, fun _ => tlvNextRegs_lim ..⟩

/-- Settles O39: REC_START and REC_NEXT write CMD_ERR and the record parser's registers; a record step
keeps the window. -/
theorem recCommandsFrame : Obligations.RecCommandsFrame := by
  rintro i s (rfl | rfl)
  · exact ⟨_, exec_recStart s, fun _ => rfl, rfl, rfl, rfl, rfl, rfl, nofun⟩
  · exact ⟨_, exec_recNext s, fun _ => rfl, rfl, rfl, rfl, rfl, rfl, fun _ =>
      ⟨recNextRegs_base .., recNextRegs_endOff ..⟩⟩

end Sys2Proof.Machine
end

section
/-! The command words (rules R80, R81, R83, R84): which words are commands, which are illegal and by which
field, and what a write to CMD does. -/

namespace Sys2Proof

/-! ### The fields of a word -/

/-- Every command's word has RSV = 0 and the command's opcode, below 7 (rule R81). -/
theorem Laws.CommandWord.all (i : Instr) : CommandWord.Statement i := by
  cases i with
  | nop => exact CommandWord.nop
  | tlvStart => exact CommandWord.tlvStart
  | tlvNext => exact CommandWord.tlvNext
  | recStart => exact CommandWord.recStart
  | recNext => exact CommandWord.recNext
  | locate => exact CommandWord.locate
  | softReset => exact CommandWord.softReset

/-- CMD32: a word is its field RSV above its field OP (rule R81). -/
theorem cmdRsv_append_cmdOp (w : Word) : cmdRsv w ++ cmdOp w = w :=
  (BitVec.extractLsb'_append_extractLsb'_eq_extractLsb' (x := w) rfl).trans BitVec.extractLsb'_eq_self

/-- A word is a command's word when its fields are (rule R81). -/
theorem eq_encode_of_fields {w : Word} {i : Instr} (hrsv : cmdRsv w = 0#24)
    (hop : cmdOp w = opcodeOf i) : w = encode i := by
  rw [← cmdRsv_append_cmdOp w, hrsv, hop, encode]

/-- The opcodes below 7 are all assigned (rule R83). -/
theorem exists_opcodeOf {op : BitVec 8} (h : op.toNat < 7) : ∃ i, opcodeOf i = op := by
  have assigned : ∀ n < 7, ∃ i ∈ opcodeTable.map (·.instr), opcodeOf i = BitVec.ofNat 8 n := by decide
  obtain ⟨i, -, hi⟩ := assigned op.toNat h
  exact ⟨i, by rw [hi, BitVec.ofNat_toNat, BitVec.setWidth_eq]⟩

/-- The reason an illegal word is refused for is chosen by RSV alone (rule R84). -/
theorem eq_of_decode_error {w : Word} {e : DecodeError} (h : decode w = .error e) :
    e = if cmdRsv w = 0#24 then .opcodeUnassigned else .reservedBitsSet := by
  unfold decode at h
  split at h
  · cases h
  · split_ifs at h ⊢ <;> cases h <;> rfl

/-! ### The statements about words -/

/-- Settles O2, by the round trip of every command and the word of every decoded command. -/
theorem decodeEncodeAgree : Obligations.DecodeEncodeAgree :=
  ⟨fun i _ => decode_encode i, fun _ _ => eq_encode_of_decode⟩

/-- Settles O3: a word that decodes is its command's word, so its fields are that word's; a word that does
not has no command's fields, and RSV chooses the reason. -/
theorem illegalWordsByField : Obligations.IllegalWordsByField := by
  intro w
  cases h : decode w with
  | ok i =>
    obtain ⟨hrsv, hop, hlt⟩ := Laws.CommandWord.all i
    rw [← eq_encode_of_decode h] at hrsv hop
    have hlt : (cmdOp w).toNat < 7 := hop ▸ hlt
    exact ⟨fun hne => absurd hrsv hne, fun _ hle => by omega, fun _ _ => ⟨i, rfl, hop.symm⟩⟩
  | error e =>
    have he := eq_of_decode_error h
    refine ⟨fun hne => by rw [he, if_neg hne], fun heq _ => by rw [he, if_pos heq], fun heq hlt => ?_⟩
    obtain ⟨i, hi⟩ := exists_opcodeOf hlt
    exact absurd (eq_encode_of_fields heq hi.symm) (ne_encode_of_decode h i)

/-- Settles O1: the seven words are the commands' own, the other two are illegal by a field. -/
theorem commandWordsDecode : Obligations.CommandWordsDecode := by
  obtain ⟨reserved, -, -⟩ := illegalWordsByField 0x00000102#32
  obtain ⟨-, unassigned, -⟩ := illegalWordsByField 0x00000007#32
  exact ⟨decode_encode .nop, decode_encode .tlvStart, decode_encode .tlvNext, decode_encode .recStart,
    decode_encode .recNext, decode_encode .locate, decode_encode .softReset,
    reserved (by decide), unassigned (by decide) (by decide)⟩

/-! ### A write to CMD -/

namespace Machine

theorem toWord_toNat (w : Word) : toWord w.toNat = w := by
  rw [toWord, BitVec.ofNat_toNat, BitVec.setWidth_eq]

theorem writeCmd_of_decode {w : Word} {i : Instr} (h : decode w = .ok i) (s : State) :
    writeCmd s w = exec i s := by rw [writeCmd, h]

theorem writeCmd_of_ne_encode {w : Word} (h : ∀ i, w ≠ encode i) (s : State) :
    writeCmd s w = .next (illegalCommand s) := by
  rcases writeCmd_cases s w with ⟨i, hd, -⟩ | ⟨e, -, hw⟩
  · exact absurd (eq_encode_of_decode hd) (h i)
  · exact hw

/-- `withFetchWord` puts a write of the word to CMD before the pending inputs (assumption 4). -/
theorem State.withFetchWord_writesCmd (s : State) (w : Word) :
    (s.withFetchWord 32 w.toNat).WritesCmd w s.host.pending := by
  have hw : toWord (w.toNat % 2 ^ 32) = w := by rw [Nat.mod_eq_of_lt w.isLt, toWord_toNat]
  rw [State.WritesCmd, State.withFetchWord, hw]; rfl

/-- Settles O5: a command's word decodes to that command; a word equal to none does not decode. -/
theorem cmdWriteExecutesItsRow : Obligations.CmdWriteExecutesItsRow := by
  intro s rest w hw
  rw [step_writeCmd hw]
  refine ⟨?_, fun hne => writeCmd_of_ne_encode hne _⟩
  rintro i rfl
  exact writeCmd_of_decode (decode_encode i) _

/-- Settles O4: both states have a write of the word to CMD next, and taking the input that `withFetchWord`
put there gives `s` back. -/
theorem stepRunsDecodedCommand : Obligations.StepRunsDecodedCommand := by
  intro s rest w i hd
  refine ⟨fun hw => ?_, ?_⟩
  · rw [step_writeCmd hw, writeCmd_of_decode hd]
  · rw [step_writeCmd (s.withFetchWord_writesCmd w), writeCmd_of_decode hd]; rfl

end Machine
end Sys2Proof
end

section
/-! The host program `load` (rules R88, R89, R223): its accesses one by one, and the image they leave in
BUF. -/

namespace Sys2Proof.Machine

/-! ### Bytes written from an offset on -/

/-- BUF after the bytes `bs` have been written to it from offset `a` on. -/
def Memory.writeBytes (m : Memory) : Nat → List Byte → Memory
  | _, [] => m
  | a, b :: bs => (m.write a b).writeBytes (a + 1) bs

theorem Memory.read_writeBytes_outside (m : Memory) {a k : Nat} {bs : List Byte}
    (h : k < a ∨ a + bs.length ≤ k) : (m.writeBytes a bs).read k = m.read k := by
  induction bs generalizing m a with
  | nil => rfl
  | cons b bs ih =>
    rw [List.length_cons] at h
    rw [writeBytes, ih _ (by omega), read_write_other _ _ (by omega)]

/-- The bytes written are the bytes held: the writes after the first go past its offset. -/
theorem Memory.holds_writeBytes (m : Memory) (a : Nat) (bs : List Byte) :
    (m.writeBytes a bs).Holds a bs := by
  induction bs generalizing m a with
  | nil => rfl
  | cons b bs ih =>
    have hhead : ((m.write a b).writeBytes (a + 1) bs).read a = b := by
      rw [read_writeBytes_outside _ (by omega), read_write_same]
    rw [Holds, writeBytes, List.length_cons, slice_succ, hhead, ih]

/-! ### The steps of a program -/

theorem run_succ_of_step (M : Host.Core) {s t : M.State} (h : M.step s = .next t) (k : Nat) :
    M.run (k + 1) s = M.run k t := by
  rw [Host.Core.run, h]

theorem core_run_succ {s t : State} (h : step s = .next t) (k : Nat) :
    core.run (k + 1) s = core.run k t := run_succ_of_step core h k

/-- A byte write inside BUF stores its byte (rule R188). -/
theorem step_bufWrite {s : State} {a : Nat} {b : Byte} {rest : List Input}
    (h : s.host.pending = .access (.bufWrite a b) :: rest) (ha : a < s.cfgBufSize.toNat) :
    step s = .next ((s.setPending rest).setBuf (s.buf.write a b)) := by
  unfold step stepPending
  rw [h]
  exact congrArg _ (if_pos ha)

theorem regAccessLegal_offset (r : Reg) : regAccessLegal r.offset .w32 = true := by cases r <;> rfl

theorem writeOffset_offset {r : Reg} (hr : r ≠ .CMD) (s : State) (v : Word) :
    writeOffset s r.offset v = .next (writeReg s v r) := by
  rw [writeOffset, Reg.at?_offset]
  split
  · next heq => exact absurd (Option.some.inj heq) hr
  · next heq => rw [Option.some.inj heq]
  · next heq => cases heq

/-- A 32-bit write to a mapped register other than CMD (rule R185). -/
theorem step_writeReg {s : State} {r : Reg} {v : Word} {rest : List Input} (hr : r ≠ .CMD)
    (h : s.host.pending = .access (.regWrite r.offset .w32 v) :: rest) :
    step s = .next (writeReg (s.setPending rest) v r) := by
  unfold step stepPending
  rw [h]
  exact (if_pos (regAccessLegal_offset r)).trans (writeOffset_offset hr _ v)

/-- A host write of a length that fits BUF stores it in BUF_LEN (rule R24). -/
theorem step_writeBufLen {s : State} {v : Word} {rest : List Input}
    (h : s.host.pending = .access (.regWrite Reg.BUF_LEN.offset .w32 v) :: rest)
    (hv : v.toNat ≤ s.cfgBufSize.toNat) :
    step s = .next ((s.setPending rest).setBufLen v) := by
  have hclamp : clampLen (s.setPending rest) v = v := if_pos hv
  rw [step_writeReg (by decide) h, writeReg, hclamp]

/-- A run of byte writes inside BUF, one step for each byte. -/
theorem core_run_wb {s : State} {a : Nat} {bs : List Byte} {rest : List Input} (k : Nat)
    (hp : s.host.pending = (wb a bs).map .access ++ rest)
    (hfit : a + bs.length ≤ s.cfgBufSize.toNat) :
    core.run (bs.length + k) s = core.run k ((s.setPending rest).setBuf (s.buf.writeBytes a bs)) := by
  induction bs generalizing s a with
  | nil =>
    obtain rfl : s.host.pending = rest := hp
    rw [List.length_nil, Nat.zero_add]; rfl
  | cons b bs ih =>
    rw [List.length_cons] at hfit
    have hrest : a + 1 + bs.length ≤ s.cfgBufSize.toNat := by omega
    rw [List.length_cons, Nat.add_right_comm, core_run_succ (step_bufWrite hp (by omega))]
    refine ih rfl ?_
    exact hrest

/-- Settles O15: one step for each byte of the image, then the write of BUF_LEN, which the image's length
does not exceed. -/
theorem loadPlacesImage : Obligations.LoadPlacesImage := by
  intro s image hfit
  refine ⟨s.buf.writeBytes 0 image, ?_, s.buf.holds_writeBytes 0 image,
    fun a ha => s.buf.read_writeBytes_outside (.inr (by omega))⟩
  have hsize := s.cfgBufSize.isLt
  have hlen : (toWord image.length).toNat = image.length := toNat_toWord (by omega)
  have hp : (s.withProgram (load image)).host.pending =
      (wb 0 image).map .access ++ (wr .BUF_LEN (toWord image.length)).map .access :=
    List.map_append
  rw [core_run_wb 1 hp ((Nat.zero_add _).trans_le hfit)]
  refine core_run_succ (step_writeBufLen rfl ?_) 0
  exact hlen.trans_le hfit

end Sys2Proof.Machine
end

section
/-! Frames and records that fit (rules R85, R86, R87, R105, R111, R138, R143): the fields a NEXT command
yields. -/

namespace Sys2Proof.Machine

/-! ### A TLV frame -/

theorem decodeTlvLength_short {m : Memory} {q n : Nat} (hq : q < n) (hl : m.read q ≠ 0xFF#8) :
    decodeTlvLength m q n = .ok (m.read q).toNat .short (q + 1) := by
  rw [decodeTlvLength, if_neg (by omega), if_pos hl]

theorem decodeTlvLength_extended {m : Memory} {q n : Nat} (hq : q + 3 ≤ n) (hl : m.read q = 0xFF#8) :
    decodeTlvLength m q n =
      .ok ((m.read (q + 1)).toNat * 256 + (m.read (q + 2)).toNat) .extended (q + 3) := by
  rw [decodeTlvLength, if_neg (by omega), if_neg (not_not.mpr hl), if_neg (by omega),
    Memory.be16_toNat]

/-- A step at a tag that is neither Null nor the Terminator reads a length field (rule R105). -/
theorem GenericTag.tlvNextRegs_eq {m : Memory} {r : TlvRegs} (g : GenericTag m r) :
    tlvNextRegs m r = tlvGenericFrame m r (m.read r.cur.toNat) r.cur.toNat r.lim.toNat := by
  simp only [tlvNextRegs, g.running, Nat.not_le.mpr g.inside, g.not_terminator, g.not_null,
    Bool.false_eq_true, if_false]

/-- A frame whose value ends at or before the limit is yielded (rule R105 step 7), as the statements write
the state after it. -/
theorem GenericTag.exec_tlvNext_fits {s : State} (g : GenericTag s.buf s.tlv) {len head : Nat}
    {fmt : LenForm}
    (hlen : decodeTlvLength s.buf (s.tlv.cur.toNat + 1) s.tlv.lim.toNat =
      .ok len fmt (s.tlv.cur.toNat + head))
    (hfit : s.tlv.cur.toNat + head + len ≤ s.tlv.lim.toNat) :
    exec .tlvNext s = .next (s.tlvYielded (s.buf.read s.tlv.cur.toNat) head len fmt false
      s.tlv.status.endCause) := by
  rw [exec_tlvNext, g.tlvNextRegs_eq, tlvGenericFrame, hlen]
  dsimp only
  rw [if_neg (by omega), TlvRegs.yield, toWord_toNat, ← g.running]
  rfl

/-- Settles O25: the length decoder gives the short or the extended form, and the value fits. -/
theorem fittingFrameIsYielded : Obligations.FittingFrameIsYielded := by
  rintro s tag hd hnull hterm rfl
  refine ⟨?_, ?_⟩
  · rintro l rfl hl hfit
    have g : GenericTag s.buf s.tlv := ⟨hd, by omega, hterm, hnull⟩
    exact g.exec_tlvNext_fits (decodeTlvLength_short (by omega) hl) hfit
  · rintro hi lo hl rfl rfl hfit
    have g : GenericTag s.buf s.tlv := ⟨hd, by omega, hterm, hnull⟩
    exact g.exec_tlvNext_fits (decodeTlvLength_extended (by omega) hl) hfit

/-! ### A record -/

/-- A record that ends at or before the window's end is yielded (rule R138). -/
theorem recNextRegs_fits {m : Memory} {r : RecRegs} (hd : r.status.done = false)
    (hfit : recNextAt m r.cur.toNat ≤ r.endOff.toNat) :
    recNextRegs m r =
      { recYieldAt m r with
        status := if (recHeaderAt m r.cur.toNat).me then ⟨true, true, .messageEnd⟩
          else ⟨true, false, r.status.endCause⟩ } := by
  have rises := layout_rises m r.cur.toNat
  have st := recNextRegs_step m r
  generalize recNextRegs m r = r' at st
  cases st with
  | ended h => exact absurd (hd.symm.trans h) Bool.false_ne_true
  | exhausted | truncHeader | truncPlen | truncIdLen | truncType | truncId | truncPayload => omega
  | last _ _ hme => rw [if_pos hme]; rfl
  | more _ _ hme => rw [if_neg (ne_true_of_eq_false hme), ← hd]; rfl

/-- Settles O37: the registers are those of the layout's yield, and no offset is changed by the narrowing,
since the record ends at or before REC_END. -/
theorem fittingRecordIsYielded : Obligations.FittingRecordIsYielded := by
  rintro s p hd rfl hfit
  have hend := s.ndef.endOff.isLt
  have rises := layout_rises s.buf s.ndef.cur.toNat
  have hoff : ∀ off ≤ recNextAt s.buf s.ndef.cur.toNat, (toWord off).toNat = off :=
    fun off h => toNat_toWord (by omega)
  refine ⟨recNextRegs s.buf s.ndef, exec_recNext s, ?_⟩
  rw [recNextRegs_fits hd hfit]
  exact ⟨rfl, rfl, rfl, rfl, hoff _ (by omega), hoff _ (by omega), hoff _ (by omega),
    hoff _ (by omega), hoff _ (by omega), rfl, rfl, rfl, rfl⟩

/-! ### The header byte -/

/-- A byte has a bit under the mask of that bit alone exactly when the bit is set. -/
theorem and_twoPow_ne_zero {w : Nat} (h : BitVec w) {i : Nat} (hi : i < w) :
    decide (h &&& BitVec.twoPow w i ≠ 0) = h.getLsbD i := by
  have hbit : BitVec.twoPow w i ≠ 0#w := fun h0 => by
    simpa [hi] using congrArg (·.getLsbD i) h0
  rw [BitVec.and_twoPow]
  cases h.getLsbD i <;> simp [hbit]

theorem toNat_getLsbD {w : Nat} (h : BitVec w) (i : Nat) :
    (h.getLsbD i).toNat = h.toNat / 2 ^ i % 2 := Nat.toNat_testBit ..

/-- TNF is the header modulo 8 (rule R87). -/
theorem unpackHeader_tnf_toNat (h : Byte) : (unpackHeader h).tnf.toNat = h.toNat % 8 := by
  simp [unpackHeader]

/-- Settles O34: each flag is the test of its own bit's mask, TNF is the header modulo 8, and the header is
the sum of its bits. -/
theorem headerUnpacksMsbToLsb : Obligations.HeaderUnpacksMsbToLsb := by
  intro h
  have flag : ∀ i < 8, h.getLsbD i = decide (h &&& BitVec.twoPow 8 i ≠ 0) :=
    fun i hi => (and_twoPow_ne_zero h hi).symm
  have low : (h &&& 0x07#8).toNat = h.toNat % 8 := by
    rw [BitVec.toNat_and]; exact Nat.and_two_pow_sub_one_eq_mod _ 3
  refine ⟨flag 7 (by decide), flag 6 (by decide), flag 5 (by decide), flag 4 (by decide),
    flag 3 (by decide), by rw [unpackHeader_tnf_toNat, low], ?_⟩
  rw [unpackHeader_tnf_toNat]
  simp only [unpackHeader, toNat_getLsbD]
  have := h.isLt
  omega

end Sys2Proof.Machine
end

section
/-! The TLV walker's commands (rules R104, R105, R107 to R110, R112 to R116): the outcome of one TLV_NEXT
case by case, as the statements write the state after it; what a step depends on; and the walk that
TLV_START begins, as iterated steps and as the first part of the walk over a longer buffer. -/

namespace Sys2Proof.Machine

/-! ### One TLV_NEXT, as the statements write the state after it -/

/-- TLV_NEXT after the end (rule R108). -/
theorem exec_tlvNext_done {s : State} (h : s.tlv.status.done = true) :
    exec .tlvNext s = .next
      { s with
        cmdErr := false
        tlv := { status := ⟨false, true, .none, s.tlv.status.endCause⟩, cur := s.tlv.cur
                 lim := s.tlv.lim, tag := 0, len := 0, toff := 0, voff := 0
                 count := s.tlv.count } } := by
  rw [exec_tlvNext, tlvNextRegs, if_pos h, ← h]; rfl

/-- A walk with no tag byte left ends with EOB_TAG (rule R105 step 1). -/
theorem exec_tlvNext_noTag {s : State} (hd : s.tlv.status.done = false)
    (hp : s.tlv.lim.toNat ≤ s.tlv.cur.toNat) : exec .tlvNext s = .next (s.tlvEnded .eobTag) := by
  rw [exec_tlvNext, tlvNextRegs, if_neg (ne_true_of_eq_false hd), if_pos hp]; rfl

/-- The Terminator is yielded and ends the walk (rule R105 step 2). -/
theorem exec_tlvNext_terminator {s : State} (hd : s.tlv.status.done = false)
    (hp : s.tlv.cur.toNat < s.tlv.lim.toNat) (ht : s.buf.read s.tlv.cur.toNat = 0xFE#8) :
    exec .tlvNext s = .next (s.tlvYielded 0xFE#8 1 0 .none true .terminator) := by
  rw [exec_tlvNext, tlvNextRegs, if_neg (ne_true_of_eq_false hd), if_neg (Nat.not_le.mpr hp)]
  dsimp only
  rw [if_pos ht, ht, TlvRegs.yield, toWord_toNat]; rfl

/-- A Null is yielded and the walk goes on (rule R105 step 3). -/
theorem exec_tlvNext_null {s : State} (hd : s.tlv.status.done = false)
    (hp : s.tlv.cur.toNat < s.tlv.lim.toNat) (ht : s.buf.read s.tlv.cur.toNat = 0x00#8) :
    exec .tlvNext s = .next (s.tlvYielded 0x00#8 1 0 .none false s.tlv.status.endCause) := by
  rw [exec_tlvNext, tlvNextRegs, if_neg (ne_true_of_eq_false hd), if_neg (Nat.not_le.mpr hp)]
  dsimp only
  rw [ht, if_neg (by decide), if_pos rfl, TlvRegs.yield, toWord_toNat, ← hd]; rfl

/-- A frame whose length field is cut off ends the walk with the decoder's cause (rule R105 step 4). -/
theorem GenericTag.exec_tlvNext_trunc {s : State} (g : GenericTag s.buf s.tlv) {c : TlvCause}
    (hlen : decodeTlvLength s.buf (s.tlv.cur.toNat + 1) s.tlv.lim.toNat = .trunc c) :
    exec .tlvNext s = .next (s.tlvEnded c) := by
  rw [exec_tlvNext, g.tlvNextRegs_eq, tlvGenericFrame, hlen]; rfl

/-- A frame whose value would pass the limit ends the walk with EOB_VALUE (rule R105 step 6). -/
theorem GenericTag.exec_tlvNext_pastEnd {s : State} (g : GenericTag s.buf s.tlv) {len q : Nat}
    {fmt : LenForm}
    (hlen : decodeTlvLength s.buf (s.tlv.cur.toNat + 1) s.tlv.lim.toNat = .ok len fmt q)
    (hpast : s.tlv.lim.toNat < q + len) : exec .tlvNext s = .next (s.tlvEnded .eobValue) := by
  rw [exec_tlvNext, g.tlvNextRegs_eq, tlvGenericFrame, hlen]
  dsimp only
  rw [if_pos hpast]; rfl

theorem decodeTlvLength_noLength {m : Memory} {q n : Nat} (hq : n ≤ q) :
    decodeTlvLength m q n = .trunc .eobLen := by
  rw [decodeTlvLength, if_pos hq]

theorem decodeTlvLength_noExtLength {m : Memory} {q n : Nat} (hq : q < n) (hl : m.read q = 0xFF#8)
    (hx : n < q + 3) : decodeTlvLength m q n = .trunc .eobExtLen := by
  rw [decodeTlvLength, if_neg (by omega), if_neg (not_not.mpr hl), if_pos hx]

/-- Settles O26: without a tag byte the walk ends at once; with one, the length decoder gives the cause or
a length that passes the limit. -/
theorem truncatedFramesEndWalk : Obligations.TruncatedFramesEndWalk := by
  intro s hd
  refine ⟨exec_tlvNext_noTag hd, fun hnull hterm => ?_⟩
  have generic (hp : s.tlv.cur.toNat < s.tlv.lim.toNat) : GenericTag s.buf s.tlv :=
    ⟨hd, hp, hterm, hnull⟩
  refine ⟨fun hq => ?_, fun hq hx hl => ?_, ?_, ?_⟩
  · exact (generic (by omega)).exec_tlvNext_trunc (decodeTlvLength_noLength hq.ge)
  · exact (generic (by omega)).exec_tlvNext_trunc (decodeTlvLength_noExtLength hq hl hx)
  · rintro l hq rfl hl hpast
    exact (generic (by omega)).exec_tlvNext_pastEnd (decodeTlvLength_short hq hl) hpast
  · rintro hi lo hq hl rfl rfl hpast
    exact (generic (by omega)).exec_tlvNext_pastEnd (decodeTlvLength_extended hq hl) hpast

/-- Settles O27: the decoded length is the one of the short form, so the value ends at the limit, where no
tag byte is left, or one byte past it. -/
theorem exactFitThenEobTag : Obligations.ExactFitThenEobTag := by
  rintro s l hd hnull hterm rfl hl
  refine ⟨fun hfit => ?_, fun hq hpast => ?_⟩
  · have g : GenericTag s.buf s.tlv := ⟨hd, by omega, hterm, hnull⟩
    have hcur : toWord (s.tlv.cur.toNat + 2 + (s.buf.read (s.tlv.cur.toNat + 1)).toNat) =
        s.tlv.lim := by rw [hfit, toWord_toNat]
    exact ⟨_, _, g.exec_tlvNext_fits (head := 2) (decodeTlvLength_short (by omega) hl) hfit.le, rfl,
      hcur, exec_tlvNext_noTag rfl (congrArg BitVec.toNat hcur).ge, rfl, rfl, rfl⟩
  · have g : GenericTag s.buf s.tlv := ⟨hd, by omega, hterm, hnull⟩
    exact g.exec_tlvNext_pastEnd (decodeTlvLength_short hq hl) (by omega)

/-- Settles O21: TLV_START's registers are those of the statement, and with BUF_LEN = 0 its walk has no
tag byte. -/
theorem tlvStartBeginsWalk : Obligations.TlvStartBeginsWalk := fun s =>
  ⟨_, exec_tlvStart s, rfl, fun h => exec_tlvNext_noTag rfl (by simp [h])⟩

/-- Settles O22: the step after the end, at reset's registers and in any state. -/
theorem tlvNextAfterEnd : Obligations.TlvNextAfterEnd := ⟨rfl, fun _ => exec_tlvNext_done⟩

/-- Settles O23: after the Terminator DONE is 1, so the next step reads no byte of BUF. -/
theorem terminatorYieldsAndEnds : Obligations.TerminatorYieldsAndEnds := by
  intro s hd hp ht
  have hlim := s.tlv.lim.isLt
  exact ⟨exec_tlvNext_terminator hd hp ht,
    fun m => ⟨_, exec_tlvNext_done rfl, rfl, toNat_toWord (by omega)⟩⟩

/-- Settles O24: a Null below the limit is yielded from its tag byte alone. -/
theorem nullYieldsOneEntry : Obligations.NullYieldsOneEntry := fun _ => exec_tlvNext_null

/-! ### What TLV_NEXT depends on -/

/-- Two TLV walkers stand at the same place of a walk: what a TLV step reads of its registers. -/
structure TlvRegs.SamePlace (r r' : TlvRegs) : Prop where
  cur : r.cur = r'.cur
  lim : r.lim = r'.lim
  done : r.status.done = r'.status.done

/-- Two TLV walkers show the same cursor, results, VALID, DONE and LFMT; the same END_CAUSE if
`sameCause`. -/
structure TlvRegs.SameOutcome (sameCause : Prop) (y y' : TlvRegs) : Prop where
  cur : y.cur = y'.cur
  tag : y.tag = y'.tag
  len : y.len = y'.len
  toff : y.toff = y'.toff
  voff : y.voff = y'.voff
  valid : y.status.valid = y'.status.valid
  done : y.status.done = y'.status.done
  lfmt : y.status.lfmt = y'.status.lfmt
  endCause : sameCause → y.status.endCause = y'.status.endCause

section
variable {r r' : TlvRegs} (h : r.SamePlace r')
include h

theorem TlvRegs.SamePlace.noYield :
    TlvRegs.SameOutcome (r.status.endCause = r'.status.endCause) r.noYield r'.noYield := by
  constructor <;> simp [h.cur, h.done]

theorem TlvRegs.SamePlace.endWith {sameCause : Prop} (c : TlvCause) :
    TlvRegs.SameOutcome sameCause (r.endWith c) (r'.endWith c) := by
  constructor <;> simp [h.cur]

theorem TlvRegs.SamePlace.yield (tag : Byte) (toff len voff : Nat) (fmt : LenForm) (next : Nat) :
    TlvRegs.SameOutcome (r.status.endCause = r'.status.endCause)
      (r.yield tag toff len voff fmt next) (r'.yield tag toff len voff fmt next) := by
  constructor <;> simp [h.done]

/-- Steps 4 to 7 of rule R105 use the registers of the walk's place only. -/
theorem TlvRegs.SamePlace.tlvGenericFrame (m : Memory) (tag : Byte) (p n : Nat) :
    TlvRegs.SameOutcome (r.status.endCause = r'.status.endCause)
      (tlvGenericFrame m r tag p n) (tlvGenericFrame m r' tag p n) := by
  unfold Machine.tlvGenericFrame
  cases decodeTlvLength m (p + 1) n with
  | trunc c => exact h.endWith c
  | ok len fmt q =>
    dsimp only
    split_ifs
    · exact h.endWith _
    · exact h.yield ..

/-- Over one memory, a TLV step's outcome follows from the walk's place. -/
theorem TlvRegs.SamePlace.tlvNextRegs (m : Memory) :
    TlvRegs.SameOutcome (r.status.endCause = r'.status.endCause)
      (tlvNextRegs m r) (tlvNextRegs m r') := by
  unfold Machine.tlvNextRegs
  rw [← h.done, ← h.cur, ← h.lim]
  dsimp only
  split_ifs
  · exact h.noYield
  · exact h.endWith _
  · constructor <;> simp
  · exact h.yield ..
  · exact h.tlvGenericFrame ..

end

/-- Settles O29: the two steps are the same over the first state's BUF, since they start at the same place,
and the second step may be taken over that BUF, since it reads below the limit only. -/
theorem tlvNextReadsOnlyBelowLimit : Obligations.TlvNextReadsOnlyBelowLimit := by
  intro s s' hcur hlim hdone hagree
  have below : tlvNextRegs s'.buf s'.tlv = tlvNextRegs s.buf s'.tlv :=
    (tlvNextRegs_congr (hcur ▸ hlim ▸ hagree)).symm
  have same := TlvRegs.SamePlace.tlvNextRegs ⟨hcur, hlim, hdone⟩ s.buf
  refine ⟨_, _, exec_tlvNext s, exec_tlvNext s', ?_⟩
  simp only [State.setTlv_tlv, below]
  exact ⟨same.cur, same.tag, same.len, same.toff, same.voff, same.valid, same.done, same.lfmt,
    same.endCause⟩

/-! ### The walk as iterated steps -/

/-- TLV_NEXT commands, of which the first finds CMD_ERR at 0. -/
theorem runCommands_tlvNext (k : Nat) (s : State) :
    runCommands (List.replicate k .tlvNext) s.clearErr =
      .next (s.clearErr.setTlv ((tlvNextRegs s.buf)^[k] s.tlv)) := by
  induction k generalizing s with
  | zero => rfl
  | succ k ih => exact ih (s.setTlv (tlvNextRegs s.buf s.tlv))

/-- TLV_START and then TLV_NEXT commands: the walker's steps from the start of the walk. -/
theorem runCommands_tlvWalk (k : Nat) (s : State) :
    runCommands (.tlvStart :: List.replicate k .tlvNext) s =
      .next (s.clearErr.setTlv ((tlvNextRegs s.buf)^[k] (s.tlv.start s.bufLen))) :=
  runCommands_tlvNext k (s.setTlv (s.tlv.start s.bufLen))

theorem iterate_tlvNextRegs_lim (m : Memory) (k : Nat) (r : TlvRegs) :
    ((tlvNextRegs m)^[k] r).lim = r.lim := by
  induction k generalizing r with
  | zero => rfl
  | succ k ih => rw [Function.iterate_succ_apply, ih, tlvNextRegs_lim]

/-- Every step of a walk begun with TLV_START leaves the cursor inside the limit (rule R115). -/
theorem iterate_tlvNextRegs_cur_le (m : Memory) (k : Nat) (r : TlvRegs) (lim : Word) :
    ((tlvNextRegs m)^[k] (r.start lim)).cur.toNat ≤ lim.toNat := by
  have inv : ((tlvNextRegs m)^[k] (r.start lim)).Inv lim.toNat :=
    Function.Iterate.rec (TlvRegs.Inv lim.toNat) (.start (Nat.le_refl _)) (fun _ h => h.next m) k
  exact inv.cur_le_lim.trans inv.lim_le_size

/-- A walk that has not ended after `k` steps has passed at least `k` bytes (rules R106, R115). -/
theorem iterate_tlvNextRegs_running {m : Memory} {k : Nat} {r : TlvRegs}
    (h : ((tlvNextRegs m)^[k] r).status.done = false) :
    r.cur.toNat + k ≤ ((tlvNextRegs m)^[k] r).cur.toNat := by
  induction k with
  | zero => exact Nat.le_refl _
  | succ k ih =>
    rw [Function.iterate_succ_apply'] at h ⊢
    obtain ⟨hrun, -, -, hlt, -⟩ := tlvNextRegs_running h
    have := ih hrun
    omega

/-- Settles O30: a walk still running after `BUF_LEN + 1` steps would have its cursor past the limit. -/
theorem tlvWalkEnds : Obligations.TlvWalkEnds := by
  intro s
  refine ⟨⟨_, runCommands_tlvWalk _ s, ?_⟩, fun k t h => ?_⟩
  · by_contra hrun
    have passed := iterate_tlvNextRegs_running (eq_false_of_ne_true hrun)
    have inside := iterate_tlvNextRegs_cur_le s.buf (s.bufLen.toNat + 1) s.tlv s.bufLen
    omega
  · cases (runCommands_tlvWalk k s).symm.trans h
    have hlim : ((tlvNextRegs s.buf)^[k] (s.tlv.start s.bufLen)).lim = s.bufLen :=
      iterate_tlvNextRegs_lim ..
    refine ⟨hlim, ?_⟩
    rw [State.setTlv_tlv, hlim]
    exact iterate_tlvNextRegs_cur_le ..

/-! ### The walk over a truncated buffer -/

theorem srcTlvLength_short {l : Byte} (hl : l ≠ 0xFF#8) (rest : List Byte) :
    srcTlvLength (l :: rest) = some (l.toNat, rest) := if_pos hl

theorem srcTlvLength_extended (rest : List Byte) :
    srcTlvLength (0xFF#8 :: rest) =
      (takeBytes 2 rest).map fun taken => (bigEndian taken.1, taken.2) := rfl

/-- Bytes that follow do not change a length field that could be read. -/
theorem srcTlvLength_append {x body : List Byte} {len : Nat} (h : srcTlvLength x = some (len, body))
    (y : List Byte) : srcTlvLength (x ++ y) = some (len, body ++ y) := by
  cases x with
  | nil => cases h
  | cons l rest =>
    rw [List.cons_append]
    by_cases hl : l = 0xFF#8
    · subst hl
      rw [srcTlvLength_extended] at h ⊢
      rcases takeBytes_append 2 rest y with hnone | ⟨f, tail, hx, hxy⟩
      · rw [hnone] at h; cases h
      · rw [hx] at h; rw [hxy]; cases h; rfl
    · rw [srcTlvLength_short hl] at h ⊢
      cases h; rfl

/-- The source's entries of a buffer are the first entries of every buffer that begins with it. -/
theorem srcTlvFrom_isPrefix_append {fuel fuel' : Nat} (hf : fuel ≤ fuel') (x y : List Byte) :
    srcTlvFrom fuel x <+: srcTlvFrom fuel' (x ++ y) := by
  induction fuel generalizing fuel' x with
  | zero => exact List.nil_prefix
  | succ fuel ih =>
    obtain ⟨k, rfl⟩ : ∃ k, fuel' = k + 1 := ⟨fuel' - 1, by omega⟩
    have hk : fuel ≤ k := by omega
    cases x with
    | nil => exact List.nil_prefix
    | cons tag rest =>
      rw [List.cons_append]
      by_cases hT : tag = 0xFE#8
      · rw [hT, srcTlvFrom_terminator, srcTlvFrom_terminator]
      by_cases hN : tag = 0x00#8
      · rw [hN, srcTlvFrom_null, srcTlvFrom_null]
        exact List.cons_prefix_cons.mpr ⟨rfl, ih hk rest⟩
      cases hl : srcTlvLength rest with
      | none => rw [srcTlvFrom_noLength _ hT hN hl]; exact List.nil_prefix
      | some field =>
        obtain ⟨len, body⟩ := field
        rcases takeBytes_append len body y with hv | ⟨value, rest', hv, hv'⟩
        · rw [srcTlvFrom_noValue _ hT hN hl hv]; exact List.nil_prefix
        · rw [srcTlvFrom_frame _ hT hN hl hv, srcTlvFrom_frame _ hT hN (srcTlvLength_append hl y) hv']
          exact List.cons_prefix_cons.mpr ⟨rfl, ih hk rest'⟩

/-- The walk that TLV_START begins yields the source's entries of the bytes of BUF below BUF_LEN. -/
theorem walkTlv_eq_srcTlvs (s : State) : ∃ t, exec .tlvStart s = .next t ∧
    (walkTlv (s.bufLen.toNat + 1) t).1 = srcTlvs (s.buf.slice 0 s.bufLen.toNat) := by
  have hlen : s.bufLen.toNat = (s.buf.slice 0 s.bufLen.toNat).length := (Memory.slice_length ..).symm
  obtain ⟨t, ht, hwalk, -⟩ := tlvWalkIsSourceSequence s _ (congrArg (s.buf.slice 0) hlen.symm) hlen
  exact ⟨t, ht, by rwa [← hlen] at hwalk⟩

/-- Settles O53: both walks are the source's, and the shorter image begins the longer one. -/
theorem tlvTruncationYieldsPrefix : Obligations.TlvTruncationYieldsPrefix := by
  intro s k hk
  obtain ⟨t, ht, hshort⟩ := walkTlv_eq_srcTlvs (s.setBufLen k)
  obtain ⟨u, hu, hwhole⟩ := walkTlv_eq_srcTlvs s
  obtain ⟨n, hn⟩ := Nat.exists_eq_add_of_le hk
  refine ⟨t, u, ht, hu, ?_⟩
  rw [State.setBufLen_bufLen, State.setBufLen_buf] at hshort
  rw [hshort, hwhole, hn, Memory.slice_append]
  exact srcTlvFrom_isPrefix_append (by simp) _ _

end Sys2Proof.Machine
end

section
/-! The record parser's commands (rules R137, R138, R140 to R142, R144, R145, R148, R205): the outcome of
REC_START and of one REC_NEXT that yields nothing, as the statements write the state after it; the cause of
a walk's end; and the walk that REC_START begins, as iterated steps and as the first part of the walk over
a longer window. -/

namespace Sys2Proof.Machine

/-! ### One REC_NEXT, as the statements write the state after it -/

/-- REC_NEXT after the end (rule R141). -/
theorem exec_recNext_done {s : State} (h : s.ndef.status.done = true) :
    exec .recNext s = .next (s.recEnded s.ndef.status.endCause) := by
  rw [exec_recNext, recNextRegs, if_pos h, State.recEnded, ← h]; rfl

/-- REC_NEXT that ends the walk (rule R140). -/
theorem exec_recNext_endWith {s : State} {c : RecCause}
    (h : recNextRegs s.buf s.ndef = s.ndef.endWith c) :
    exec .recNext s = .next (s.recEnded c) := by
  rw [exec_recNext, h]; rfl

/-- The cause that ends a walk whose record at `p` does not lie in the window up to `e`: the first field
of the layout, in the order of rule R205, that is not complete there. -/
def recStopCause (m : Memory) (p e : Nat) : RecCause :=
  if e = p then .exhausted
  else if e < p + 2 then .truncHeader
  else if e < recAfterPayloadLen m p then .truncPlen
  else if e < recTypeOffAt m p then .truncIdLen
  else if e < recIdOffAt m p then .truncType
  else if e < recPayloadOffAt m p then .truncId
  else .truncPayload

/-- A record that does not end in the window ends the walk with its cause (rules R138, R144, R145). -/
theorem recNextRegs_stops {m : Memory} {r : RecRegs} (hd : r.status.done = false)
    (hpast : r.endOff.toNat < recNextAt m r.cur.toNat) :
    recNextRegs m r = r.endWith (recStopCause m r.cur.toNat r.endOff.toNat) := by
  have rises := layout_rises m r.cur.toNat
  have step := recNextRegs_step m r
  generalize recNextRegs m r = r' at step
  cases step with
  | ended h => exact absurd (hd.symm.trans h) Bool.false_ne_true
  | last | more => omega
  | exhausted | truncHeader | truncPlen | truncIdLen | truncType | truncId | truncPayload =>
    simp (disch := omega) only [recStopCause, if_pos, if_neg]

theorem exec_recNext_stops {s : State} (hd : s.ndef.status.done = false)
    (hpast : s.ndef.endOff.toNat < recNextAt s.buf s.ndef.cur.toNat) :
    exec .recNext s =
      .next (s.recEnded (recStopCause s.buf s.ndef.cur.toNat s.ndef.endOff.toNat)) :=
  exec_recNext_endWith (recNextRegs_stops hd hpast)

/-- Settles O36: a step after the end keeps the cause with which the walk ended. -/
theorem recNextAfterEnd : Obligations.RecNextAfterEnd := fun _ => exec_recNext_done

/-- Settles O38: each range of REC_END lies before the record's end, and picks its own cause. -/
theorem truncatedRecordsEndWalk : Obligations.TruncatedRecordsEndWalk := by
  rintro s p e hd rfl rfl
  have rises := layout_rises s.buf s.ndef.cur.toNat
  have stop {c : RecCause} (hpast : s.ndef.endOff.toNat < recNextAt s.buf s.ndef.cur.toNat)
      (hc : recStopCause s.buf s.ndef.cur.toNat s.ndef.endOff.toNat = c) :
      exec .recNext s = .next (s.recEnded c) := hc ▸ exec_recNext_stops hd hpast
  refine ⟨fun _ => ?_, fun _ => ?_, fun _ _ => ?_, fun _ _ => ?_, fun _ _ => ?_, fun _ _ => ?_,
    fun _ _ => ?_⟩ <;> refine stop (by omega) ?_ <;>
    simp (disch := omega) only [recStopCause, if_pos, if_neg]

/-! ### The window that REC_START opens -/

theorem windowEnd_lt (s : State) : windowEnd s < 2 ^ 32 :=
  (Nat.min_le_right ..).trans_lt s.bufLen.isLt

theorem windowBase_le_windowEnd (s : State) : windowBase s ≤ windowEnd s := Nat.min_le_right ..

theorem toNat_windowEnd (s : State) : (toWord (windowEnd s)).toNat = windowEnd s :=
  toNat_toWord (windowEnd_lt s)

theorem toNat_windowBase (s : State) : (toWord (windowBase s)).toNat = windowBase s :=
  toNat_toWord ((windowBase_le_windowEnd s).trans_lt (windowEnd_lt s))

/-- Settles O35: the narrowing does not change the window's ends, and in an empty window the record at
the cursor has no byte left. -/
theorem recStartSetsWindow : Obligations.RecStartSetsWindow := by
  intro s
  refine ⟨toWord (windowEnd s), toWord (windowBase s), _, toNat_windowEnd s, ?_, exec_recStart s, rfl,
    fun hempty => exec_recNext_endWith ?_⟩
  · rw [toNat_windowBase, toNat_windowEnd]; rfl
  · exact recNextRegs_atEnd _ ⟨rfl, (congrArg BitVec.toNat hempty).le⟩
      (congrArg BitVec.toNat hempty).ge

/-! ### The walk as iterated steps -/

/-- REC_NEXT commands, of which the first finds CMD_ERR at 0. -/
theorem runCommands_recNext (k : Nat) (s : State) :
    runCommands (List.replicate k .recNext) s.clearErr =
      .next (s.clearErr.setNdef ((recNextRegs s.buf)^[k] s.ndef)) := by
  induction k generalizing s with
  | zero => rfl
  | succ k ih => exact ih (s.setNdef (recNextRegs s.buf s.ndef))

/-- No step of a walk changes its window (rules R39, R49). -/
theorem iterate_recNextRegs_window (m : Memory) (k : Nat) (r : RecRegs) :
    ((recNextRegs m)^[k] r).base = r.base ∧ ((recNextRegs m)^[k] r).endOff = r.endOff := by
  induction k generalizing r with
  | zero => exact ⟨rfl, rfl⟩
  | succ k ih =>
    rw [Function.iterate_succ_apply, ← recNextRegs_base m r, ← recNextRegs_endOff m r]
    exact ih _

/-- The steps of a walk keep the parser's invariant. -/
theorem RecRegs.Inv.iterate {size : Nat} {r : RecRegs} (h : r.Inv size) (m : Memory) (k : Nat) :
    ((recNextRegs m)^[k] r).Inv size :=
  Function.Iterate.rec (RecRegs.Inv size) h (fun _ hr => hr.next m) k

/-- A step that leaves the walk running has yielded a record, which has at least 3 bytes (rule R148). -/
theorem recNextRegs_running {m : Memory} {r : RecRegs}
    (h : (recNextRegs m r).status.done = false) :
    r.status.done = false ∧ r.cur.toNat + 3 ≤ (recNextRegs m r).cur.toNat := by
  have rises := layout_rises m r.cur.toNat
  have step := recNextRegs_step m r
  generalize recNextRegs m r = r' at step h
  cases step with
  | ended hd => exact absurd (h.symm.trans hd) Bool.false_ne_true
  | exhausted | truncHeader | truncPlen | truncIdLen | truncType | truncId | truncPayload | last =>
    exact absurd h.symm Bool.false_ne_true
  | more hd he =>
    rw [recYieldAt_cur he]
    exact ⟨hd, by omega⟩

/-- A walk that has not ended after `k` steps has passed at least `3 * k` bytes. -/
theorem iterate_recNextRegs_running {m : Memory} {k : Nat} {r : RecRegs}
    (h : ((recNextRegs m)^[k] r).status.done = false) :
    r.cur.toNat + 3 * k ≤ ((recNextRegs m)^[k] r).cur.toNat := by
  induction k with
  | zero => exact Nat.le_refl _
  | succ k ih =>
    rw [Function.iterate_succ_apply'] at h ⊢
    obtain ⟨hrun, hpassed⟩ := recNextRegs_running h
    have := ih hrun
    omega

/-- A walk in its window has ended after a third of the bytes before it plus one steps: one still running
would have passed the window's end. -/
theorem iterate_recNextRegs_done {size : Nat} {r : RecRegs} (inv : r.Inv size) (m : Memory) :
    ((recNextRegs m)^[(r.endOff.toNat - r.cur.toNat) / 3 + 1] r).status.done = true := by
  by_contra hrun
  have passed := iterate_recNextRegs_running (eq_false_of_ne_true hrun)
  have inside := (inv.iterate m ((r.endOff.toNat - r.cur.toNat) / 3 + 1)).cur_le_end
  rw [(iterate_recNextRegs_window ..).2] at inside
  omega

/-- REC_START opens a window in which the parser's invariant holds, with BUF_SIZE read as its end. -/
theorem recStart_inv (s : State) :
    (s.ndef.start (windowBase s) (windowEnd s)).Inv (windowEnd s) :=
  .start (windowBase_le_windowEnd s) (Nat.le_refl _) (windowEnd_lt s)

/-- REC_NEXT commands after REC_START: the parser's steps from the start of the walk. -/
theorem runCommands_recWalk (k : Nat) (s : State) :
    runCommands (List.replicate k .recNext)
        (s.clearErr.setNdef (s.ndef.start (windowBase s) (windowEnd s))) =
      .next (s.clearErr.setNdef
        ((recNextRegs s.buf)^[k] (s.ndef.start (windowBase s) (windowEnd s)))) :=
  runCommands_recNext k (s.setNdef (s.ndef.start (windowBase s) (windowEnd s)))

/-- Settles O41: REC_BASE is the cursor at the start, and the parser's invariant keeps the cursor in the
window. -/
theorem recWalkEnds : Obligations.RecWalkEnds := by
  intro s t ht
  cases (exec_recStart s).symm.trans ht
  have inv := recStart_inv s
  refine ⟨⟨_, runCommands_recWalk _ s, iterate_recNextRegs_done inv s.buf⟩, fun k u hu => ?_⟩
  cases (runCommands_recWalk k s).symm.trans hu
  obtain ⟨hbase, hend⟩ :=
    iterate_recNextRegs_window s.buf k (s.ndef.start (windowBase s) (windowEnd s))
  have invK := inv.iterate s.buf k
  exact ⟨hbase, hend, hbase ▸ invK.base_le_cur, hend ▸ invK.cur_le_end⟩

/-! ### The walk over a truncated window -/

/-- The source's records of a span are the first records of every longer span from the same offset. -/
theorem srcRecordsFrom_span_isPrefix (m : Memory) {fuel fuel' p e e' : Nat} (hf : fuel ≤ fuel')
    (hp : p ≤ e) (he : e ≤ e') :
    srcRecordsFrom fuel (m.span p e) <+: srcRecordsFrom fuel' (m.span p e') := by
  induction fuel generalizing fuel' p with
  | zero => exact List.nil_prefix
  | succ fuel ih =>
    obtain ⟨k, rfl⟩ : ∃ k, fuel' = k + 1 := ⟨fuel' - 1, by omega⟩
    by_cases hfit : recNextAt m p ≤ e
    · have short := (srcRecord_span m hp).trans (if_pos hfit)
      have whole := (srcRecord_span m (hp.trans he)).trans (if_pos (hfit.trans he))
      rw [srcRecordsFrom_some _ short, srcRecordsFrom_some _ whole]
      split
      · exact List.prefix_rfl
      · exact List.cons_prefix_cons.mpr ⟨rfl, ih (by omega) hfit⟩
    · rw [srcRecordsFrom_none _ ((srcRecord_span m hp).trans (if_neg hfit))]
      exact List.nil_prefix

/-- The walk that REC_START begins, in any state, yields the source's records of the window's bytes. -/
theorem walkRec_eq_srcRecordsFrom (s : State) : ∃ t, exec .recStart s = .next t ∧
    (walkRec (s.msg.len.toNat + 1) t).1 =
      srcRecordsFrom s.msg.len.toNat (s.buf.span (windowBase s) (windowEnd s)) := by
  have hwin : windowEnd s ≤ windowBase s + s.msg.len.toNat := by
    unfold windowBase windowEnd; omega
  have hcur := toNat_windowBase s
  have hend := toNat_windowEnd s
  have walking : (s.ndef.start (windowBase s) (windowEnd s)).Walking :=
    ⟨rfl, (recStart_inv s).cur_le_end⟩
  obtain ⟨hwalk, -⟩ := walkRec_source (fuel := s.msg.len.toNat)
    (s := s.clearErr.setNdef (s.ndef.start (windowBase s) (windowEnd s))) walking
    (by simp only [State.setNdef_ndef, RecRegs.start_cur, RecRegs.start_endOff]; omega)
  rw [State.setNdef_ndef, RecRegs.ahead, RecRegs.start_cur, RecRegs.start_endOff, hcur, hend] at hwalk
  exact ⟨_, exec_recStart s, hwalk⟩

/-- Settles O54: both walks are the source's over windows that begin at one offset. -/
theorem recTruncationYieldsPrefix : Obligations.RecTruncationYieldsPrefix := by
  intro s k hk
  obtain ⟨t, ht, hshort⟩ := walkRec_eq_srcRecordsFrom (s.setMsg { s.msg with len := k })
  obtain ⟨u, hu, hwhole⟩ := walkRec_eq_srcRecordsFrom s
  have hbase : windowBase (s.setMsg { s.msg with len := k }) = windowBase s := by
    simp only [windowBase, windowEnd, State.setMsg_msg, State.setMsg_bufLen]; omega
  have hend : windowEnd (s.setMsg { s.msg with len := k }) ≤ windowEnd s := by
    simp only [windowEnd, State.setMsg_msg, State.setMsg_bufLen]; omega
  refine ⟨t, u, ht, hu, ?_⟩
  rw [hbase, State.setMsg_buf, State.setMsg_msg] at hshort
  rw [hshort, hwhole]
  exact srcRecordsFrom_span_isPrefix s.buf hk (hbase ▸ windowBase_le_windowEnd _) hend

end Sys2Proof.Machine
end

section
/-! The round trip of a record (rules R86, R87, R149): the source's record step takes a record's image apart
into the fields it was built from, and the block's record step yields what the source's takes. -/

namespace Sys2Proof.Machine

/-! ### The header byte of a record -/

/-- The header byte unpacks to the flags and the TNF it was built from (rule R130). -/
theorem unpackHeader_header {r : SrcRecord} (h : r.typeNameFormat < 8) :
    (unpackHeader r.header).mb = r.messageBegin ∧ (unpackHeader r.header).me = r.messageEnd ∧
    (unpackHeader r.header).cf = r.chunkFlag ∧ (unpackHeader r.header).sr = r.shortRecord ∧
    (unpackHeader r.header).il = r.idLengthPresent ∧
    (unpackHeader r.header).tnf.toNat = r.typeNameFormat := by
  have h7 := r.messageBegin.toNat_lt
  have h6 := r.messageEnd.toNat_lt
  have h5 := r.chunkFlag.toNat_lt
  have h4 := r.shortRecord.toNat_lt
  have h3 := r.idLengthPresent.toNat_lt
  have hsum : r.header.toNat = r.messageBegin.toNat * 0x80 + r.messageEnd.toNat * 0x40 +
      r.chunkFlag.toNat * 0x20 + r.shortRecord.toNat * 0x10 + r.idLengthPresent.toNat * 0x08 +
      r.typeNameFormat := by
    rw [SrcRecord.header, BitVec.toNat_ofNat]
    omega
  have flag {i : Nat} {b : Bool} (hb : r.header.toNat / 2 ^ i % 2 = b.toNat) :
      r.header.getLsbD i = b := by
    rw [BitVec.getLsbD, Nat.testBit_eq_decide_div_mod_eq, hb]
    cases b <;> rfl
  exact ⟨flag (by omega), flag (by omega), flag (by omega), flag (by omega), flag (by omega),
    by rw [unpackHeader_tnf_toNat]; omega⟩

/-! ### The record step over a record's fields -/

theorem takeBytes_append_length {n : Nat} {x : List Byte} (h : x.length = n) (y : List Byte) :
    takeBytes n (x ++ y) = some (x, y) := by
  subst h
  simp [takeBytes]

/-- The source's record step over the fields of a record, each as long as the fields before it say. -/
theorem srcRecord_fields {h typeLength : Byte} {plen idLen typeField idField payload : List Byte}
    (hplen : plen.length = if (unpackHeader h).sr then 1 else 4)
    (hidLen : idLen.length = if (unpackHeader h).il then 1 else 0)
    (htype : typeField.length = typeLength.toNat) (hid : idField.length = bigEndian idLen)
    (hpayload : payload.length = bigEndian plen) (rest : List Byte) :
    srcRecord (h :: typeLength ::
        (plen ++ (idLen ++ (typeField ++ (idField ++ (payload ++ rest)))))) =
      some ({ messageBegin := (unpackHeader h).mb, messageEnd := (unpackHeader h).me
              chunkFlag := (unpackHeader h).cf, shortRecord := (unpackHeader h).sr
              idLengthPresent := (unpackHeader h).il
              typeNameFormat := (unpackHeader h).tnf.toNat
              typeField, idField, payload }, rest) := by
  obtain ⟨hmb, hme, hcf, hsr, hil, htnf⟩ := unpackHeader_masks h
  simp only [srcRecord, ← hmb, ← hme, ← hcf, ← hsr, ← hil, ← htnf, takeBytes_append_length hplen,
    takeBytes_append_length hidLen, takeBytes_append_length htype, takeBytes_append_length hid,
    takeBytes_append_length hpayload, Option.bind_eq_bind, Option.bind_some, Option.pure_def]

/-- The source takes a record's image apart into the record. -/
theorem srcRecord_image {r : SrcRecord} (hr : r.fits = true) : srcRecord r.image = some (r, []) := by
  simp only [SrcRecord.fits, Bool.and_eq_true, Bool.or_eq_true, decide_eq_true_eq,
    List.isEmpty_iff] at hr
  obtain ⟨⟨⟨⟨htnf, htype⟩, hid⟩, hnoId⟩, hpayload⟩ := hr
  obtain ⟨hmb, hme, hcf, hsr, hil, hfmt⟩ := unpackHeader_header htnf
  have himage : r.image = r.header :: BitVec.ofNat 8 r.typeField.length ::
      (beBytes (if r.shortRecord then 1 else 4) r.payload.length ++
        ((if r.idLengthPresent then [BitVec.ofNat 8 r.idField.length] else []) ++
          (r.typeField ++ (r.idField ++ (r.payload ++ []))))) := by
    simp [SrcRecord.image]
  rw [himage, srcRecord_fields, hmb, hme, hcf, hsr, hil, hfmt]
  · rw [beBytes_length, hsr]
  · rw [hil]; split <;> rfl
  · rw [BitVec.toNat_ofNat]; omega
  · cases hp : r.idLengthPresent with
    | true => simp [bigEndian, Nat.mod_eq_of_lt hid]
    | false =>
      have hempty : r.idField = [] := hnoId.resolve_left (ne_true_of_eq_false hp)
      simp [hempty, bigEndian]
  · refine (bigEndian_beBytes _ _ ?_).symm
    cases hs : r.shortRecord <;> simpa [hs] using hpayload

/-! ### The statement -/

/-- Where the source takes a record from a span and leaves nothing, the layout's record fills the span. -/
theorem recordAt_of_srcRecord_span {m : Memory} {p e : Nat} {r : SrcRecord} (hp : p ≤ e)
    (source : srcRecord (m.span p e) = some (r, [])) : recordAt m p = r ∧ recNextAt m p = e := by
  rw [srcRecord_span m hp] at source
  split at source
  case isFalse => cases source
  case isTrue hfit =>
    obtain ⟨hrecord, hrest⟩ := Prod.mk.inj (Option.some.inj source)
    have hempty : e - recNextAt m p = 0 := by
      simpa [Memory.span] using congrArg List.length hrest
    exact ⟨hrecord, by omega⟩

theorem Memory.Holds.read_head {m : Memory} {off : Nat} {b : Byte} {bs : List Byte}
    (h : m.Holds off (b :: bs)) : m.read off = b := (List.cons.inj h).1

/-- A record that fills the rest of the window is yielded, the cursor moves to the window's end, and the
walk has ended exactly if the record is an ME record (rules R138, R139). -/
theorem recNextRegs_fills {m : Memory} {r : RecRegs} (hd : r.status.done = false)
    (hfill : recNextAt m r.cur.toNat = r.endOff.toNat) :
    (recNextRegs m r).status.valid = true ∧
    (recNextRegs m r).record m = recordAt m r.cur.toNat ∧
    (recNextRegs m r).hdr.raw = m.read r.cur.toNat ∧
    (recNextRegs m r).cur = (recNextRegs m r).endOff ∧
    (recNextRegs m r).status.done = (recHeaderAt m r.cur.toNat).me := by
  have hcur : (recYieldAt m r).cur = r.endOff :=
    BitVec.eq_of_toNat_eq ((recYieldAt_cur hfill.le).trans hfill)
  rw [recNextRegs_fits hd hfill.le]
  exact ⟨by split <;> rfl, record_recYieldAt hfill.le, rfl, hcur, by
    cases (recHeaderAt m r.cur.toNat).me <;> rfl⟩

/-- Settles O55: the window holds the image, so the source's record step takes the record from it and
leaves nothing; the layout's record then fills the window and is yielded. -/
theorem recordRoundTrip : Obligations.RecordRoundTrip := by
  intro s r hr hold hlen hwin
  obtain ⟨hcur, hend⟩ := recStart_window hwin
  have hspan : s.buf.span s.msg.off.toNat (s.msg.off.toNat + s.msg.len.toNat) = r.image := by
    rw [hlen, hold.span_eq]
  obtain ⟨hrecord, hnext⟩ := recordAt_of_srcRecord_span (Nat.le_add_right ..)
    (hspan ▸ srcRecord_image hr)
  have hheader : s.buf.read s.msg.off.toNat = r.header := hold.read_head
  have hme : (recHeaderAt s.buf s.msg.off.toNat).me = r.messageEnd :=
    congrArg SrcRecord.messageEnd hrecord
  have fills := recNextRegs_fills (m := s.buf) (r := s.ndef.start (windowBase s) (windowEnd s)) rfl
    (by rw [hcur, hend, hnext])
  rw [hcur, hrecord, hheader, hme] at fills
  exact ⟨_, rfl, fills⟩

end Sys2Proof.Machine
end

section
/-! The message locator (rules R170 to R172, R174, R175, R177): LOCATE's search as iterated walker steps,
what the registers at its return say, and the window of an empty message. -/

namespace Sys2Proof.Machine

/-! ### The search -/

theorem TlvRegs.atMessage_iff (r : TlvRegs) :
    r.atMessage = true ↔ r.status.valid = true ∧ r.tag = 0x03#8 := by simp [TlvRegs.atMessage]

/-- The search returns after its first walker step that yields a message or ends the walk (rules R170,
R177). -/
theorem locateLoop_iterate {m : Memory} {fuel : Nat} {r r' : TlvRegs}
    (h : locateLoop m fuel r = some r') : ∃ k < fuel, (tlvNextRegs m)^[k + 1] r = r' ∧
      ∀ j < k, ((tlvNextRegs m)^[j + 1] r).atMessage = false ∧
        ((tlvNextRegs m)^[j + 1] r).status.done = false := by
  induction fuel generalizing r with
  | zero => cases h
  | succ fuel ih =>
    simp only [locateLoop] at h
    split_ifs at h with hm hd
    · exact ⟨0, fuel.succ_pos, Option.some.inj h, nofun⟩
    · exact ⟨0, fuel.succ_pos, Option.some.inj h, nofun⟩
    · obtain ⟨k, hk, hr', before⟩ := ih h
      refine ⟨k + 1, Nat.succ_lt_succ hk, hr', fun j hj => ?_⟩
      cases j with
      | zero => exact ⟨eq_false_of_ne_true hm, eq_false_of_ne_true hd⟩
      | succ j => exact before j (Nat.lt_of_succ_lt_succ hj)

section
variable {m : Memory} {fuel : Nat} {lim : Word} {r r' : TlvRegs}

/-- A search from the start of a walk keeps the walker's invariant, with BUF_SIZE read as the limit. -/
theorem locateLoop_start_inv (h : locateLoop m fuel (r.start lim) = some r') : r'.Inv lim.toNat :=
  locateLoop_keeps (fun _ hr => hr.next m) (.start (Nat.le_refl _)) h

/-- A search from the start of a walk returns with the walk ended exactly when it has no message: a
message entry is not the Terminator, the only entry that ends a walk (rules R171, R174). -/
theorem locateLoop_start_done (h : locateLoop m fuel (r.start lim) = some r') :
    r'.status.done = !r'.atMessage := by
  cases hm : r'.atMessage with
  | false => exact (locateLoop_stop h).resolve_left (ne_true_of_eq_false hm)
  | true =>
    obtain ⟨hvalid, htag⟩ := r'.atMessage_iff.mp hm
    have hterm := (locateLoop_start_inv h).valid_done_iff_terminator hvalid
    exact eq_false_of_ne_true fun hd => absurd (htag.symm.trans (hterm.mp hd)) (by decide)

/-- A search from the start of a walk never returns the cause IDLE (rule R202). -/
theorem locateLoop_start_cause_ne_idle (h : locateLoop m fuel (r.start lim) = some r') :
    r'.status.endCause ≠ .idle :=
  locateLoop_keeps (P := (·.status.endCause ≠ .idle)) (fun _ => tlvNextRegs_cause_ne_idle m)
    (by simp) h

end

/-! ### LOCATE's result -/

theorem locateResult_found {r : TlvRegs} (h : r.atMessage = true) :
    locateResult r = ⟨⟨true, true, .none⟩, r.voff, toWord r.len.toNat⟩ := if_pos h

theorem locateResult_notFound {r : TlvRegs} (h : r.atMessage = false) :
    locateResult r = ⟨⟨false, true, r.status.endCause⟩, 0, 0⟩ := if_neg (ne_true_of_eq_false h)

theorem toNat_toWord_len (r : TlvRegs) : (toWord r.len.toNat).toNat = r.len.toNat :=
  toNat_toWord (r.len.isLt.trans (by decide))

/-- Settles O31: the search's walker steps are the TLV_NEXT commands of the walk that TLV_START begins,
and its return is a message or the end, never both. -/
theorem locateWalksToFirstMessage : Obligations.LocateWalksToFirstMessage := by
  intro s
  obtain ⟨r, hloop, hexec⟩ := exec_locate s
  obtain ⟨k, hk, hr, before⟩ := locateLoop_iterate hloop
  have hdone := locateLoop_start_done hloop
  refine ⟨k, s.clearErr.setTlv r, Nat.le_of_lt_succ hk, hr ▸ runCommands_tlvWalk (k + 1) s,
    fun j v hj hv => ?_, ?_⟩
  · cases (runCommands_tlvWalk (j + 1) s).symm.trans hv
    obtain ⟨hm, hd⟩ := before j hj
    exact ⟨fun h => ne_true_of_eq_false hm ((TlvRegs.atMessage_iff _).mpr h), hd⟩
  · cases hm : r.atMessage with
    | true =>
      rw [hm] at hdone
      obtain ⟨hvalid, htag⟩ := r.atMessage_iff.mp hm
      rw [locateResult_found hm] at hexec
      exact .inl ⟨hvalid, htag, hdone, hexec⟩
    | false =>
      rw [hm] at hdone
      rw [locateResult_notFound hm] at hexec
      exact .inr ⟨fun h => ne_true_of_eq_false hm (r.atMessage_iff.mpr h), hdone, hexec⟩

/-- Settles O33: the walker's invariant at the search's return ends the message's value at the cursor,
which is inside BUF_LEN, and gives the end of a walk its cause. -/
theorem locatedMessageInBuffer : Obligations.LocatedMessageInBuffer := by
  intro s
  obtain ⟨r, hloop, hexec⟩ := exec_locate s
  have inv := locateLoop_start_inv hloop
  have hdone := locateLoop_start_done hloop
  refine ⟨_, hexec, ?_⟩
  rw [State.setMsg_msg, State.setMsg_tlv, State.setTlv_tlv]
  cases hm : r.atMessage with
  | true =>
    rw [hm] at hdone
    rw [locateResult_found hm, toNat_toWord_len, inv.value_ends_at_cur (r.atMessage_iff.mp hm).1]
    exact ⟨rfl, fun _ => ⟨inv.cur_le_lim.trans inv.lim_le_size, rfl, hdone⟩, nofun⟩
  | false =>
    rw [hm] at hdone
    rw [locateResult_notFound hm]
    exact ⟨rfl, nofun, fun _ => ⟨rfl, rfl, rfl, hdone, inv.done_iff_cause.mp hdone,
      locateLoop_start_cause_ne_idle hloop⟩⟩

/-! ### The window of an empty message -/

/-- Settles O42: a message of length 0 ends where it begins, so REC_START opens an empty window, in which
the first REC_NEXT finds no record (rule R142). -/
theorem emptyWindowYieldsNoRecord : Obligations.EmptyWindowYieldsNoRecord := by
  intro s hlen
  obtain ⟨e, b, t, he, hb, hstart, rfl, hempty⟩ := recStartSetsWindow s
  have hlen0 : s.msg.len.toNat = 0 := congrArg BitVec.toNat hlen
  have hbe : b = e := BitVec.eq_of_toNat_eq (by omega)
  simp only [runCommands, hstart, hempty hbe]
  exact ⟨_, rfl, rfl, rfl⟩

end Sys2Proof.Machine
end

section
/-! The control commands and the host's accesses (rules R65, R68, R180 to R189): the step of each access,
what a command word's fields forbid, the bits a register does not define, and the register map. -/

namespace Sys2Proof

/-- A word with RSV not 0 or an unassigned opcode is no command's word (rules R81, R84). -/
theorem ne_encode_of_illegal_field {w : Word} (h : 7 ≤ (cmdOp w).toNat ∨ cmdRsv w ≠ 0#24) (i : Instr) :
    w ≠ encode i := by
  rintro rfl
  obtain ⟨hrsv, hop, hlt⟩ := Laws.CommandWord.all i
  have hlt : (cmdOp (encode i)).toNat < 7 := hop ▸ hlt
  rcases h with hle | hne
  · omega
  · exact hne hrsv

namespace Machine

/-! ### The commands -/

/-- Settles O6: an illegal field makes the word no command's, and a write of such a word sets CMD_ERR. -/
theorem illegalCommandSetsOnlyCmdErr : Obligations.IllegalCommandSetsOnlyCmdErr := by
  intro s rest w hw hfield
  obtain ⟨-, hillegal⟩ := cmdWriteExecutesItsRow s rest w hw
  exact hillegal (ne_encode_of_illegal_field hfield)

/-- Settles O18: every command answers a next state, and what it answers has CMD_ERR = 0. -/
theorem legalCommandsClearCmdErr : Obligations.LegalCommandsClearCmdErr := by
  intro i s
  obtain ⟨t, ht⟩ := exec_completes i s
  exact ⟨t, ht, exec_cmdErr ht⟩

/-- Settles O19: NOP's next state is `State.clearErr`. -/
theorem nopClearsOnlyCmdErr : Obligations.NopClearsOnlyCmdErr := exec_nop

theorem readReg_resetRegs (s : State) (r : Reg) :
    readReg s.resetRegs r = r.resetValue s.cfgBufSize := by
  obtain ⟨htlv, hmsg, hrec, hhdr⟩ : TlvRegs.reset.status.word = 0x00000012 ∧
      MsgRegs.reset.status.word = 0 ∧ RecRegs.reset.status.word = 0x00000012 ∧
      RecRegs.reset.hdr.word = 0 := by decide
  cases r with
  | TLV_STATUS => exact htlv
  | MSG_STATUS => exact hmsg
  | REC_STATUS => exact hrec
  | REC_HDR => exact hhdr
  | _ => rfl

/-- Settles O20: after `State.resetRegs` both walks have DONE = 1 and no result, so a NEXT command finds
nothing to clear. -/
theorem softResetKeepsBuf : Obligations.SoftResetKeepsBuf := by
  intro s
  have htlv : s.resetRegs.tlv.status.done = true := rfl
  have hrec : s.resetRegs.ndef.status.done = true := rfl
  exact ⟨s.resetRegs, exec_softReset s, readReg_resetRegs s, fun _ => rfl, rfl, rfl,
    exec_tlvNext_done htlv, exec_recNext_done hrec⟩

/-! ### The step of a host access -/

/-- A pending host access is taken and performed (rule R70). -/
theorem step_access {s : State} {a : Access} {rest : List Input}
    (h : s.host.pending = .access a :: rest) : step s = perform (s.setPending rest) a := by
  rw [step, stepPending, h]

/-- An access that is not legal is refused (rule R187). -/
theorem perform_of_not_legal {a : Access} (h : a.legal = false) (s : State) :
    perform s a = .refused .registerAccessRefused := by
  cases a with
  | regRead | regWrite => exact if_neg (ne_true_of_eq_false h)
  | bufRead | bufWrite => cases h

theorem step_of_not_legal {s : State} {a : Access} {rest : List Input}
    (h : s.host.pending = .access a :: rest) (hl : a.legal = false) :
    step s = .refused .registerAccessRefused :=
  (step_access h).trans (perform_of_not_legal hl _)

theorem regAccessLegal_eq_false {off : Nat} {wd : Width}
    (h : wd ≠ .w32 ∨ off % 4 ≠ 0 ∨ 0xFC < off) : regAccessLegal off wd = false := by
  simp only [regAccessLegal, Bool.and_eq_false_iff, beq_eq_false_iff_ne, decide_eq_false_iff_not,
    Nat.not_le]
  tauto

theorem regAccessLegal_of_aligned {off : Nat} (h4 : off % 4 = 0) (hle : off ≤ 0xFC) :
    regAccessLegal off .w32 = true := by simp [regAccessLegal, h4, hle]

/-- A legal register read returns what the register map holds there (rules R184, R186). -/
theorem step_regRead {s : State} {off : Nat} {wd : Width} {rest : List Input}
    (h : s.host.pending = .access (.regRead off wd) :: rest) (hl : regAccessLegal off wd = true) :
    step s = .next ((s.setPending rest).reply (.word (readOffset s off))) :=
  (step_access h).trans (if_pos hl)

theorem step_regWrite {s : State} {off : Nat} {wd : Width} {v : Word} {rest : List Input}
    (h : s.host.pending = .access (.regWrite off wd v) :: rest) (hl : regAccessLegal off wd = true) :
    step s = writeOffset (s.setPending rest) off v :=
  (step_access h).trans (if_pos hl)

/-- A 32-bit read at a register's offset returns the register (rule R184). -/
theorem step_readReg {s : State} {r : Reg} {rest : List Input}
    (h : s.host.pending = .access (.regRead r.offset .w32) :: rest) :
    step s = .next ((s.setPending rest).reply (.word (readReg s r))) := by
  rw [step_regRead h (regAccessLegal_offset r), readOffset, Reg.at?_offset]

/-- Settles O12: a register access with a wrong width or offset is not legal. -/
theorem badRegisterAccessIsRefused : Obligations.BadRegisterAccessIsRefused := by
  intro s off wd v rest hbad
  have hl := regAccessLegal_eq_false hbad
  exact ⟨fun h => step_of_not_legal h hl, fun h => step_of_not_legal h hl⟩

/-! ### BUF -/

/-- A byte write at or past BUF_SIZE is ignored (rule R188). -/
theorem step_bufWrite_outside {s : State} {a : Nat} {b : Byte} {rest : List Input}
    (h : s.host.pending = .access (.bufWrite a b) :: rest) (ha : s.cfgBufSize.toNat ≤ a) :
    step s = .next (s.setPending rest) :=
  (step_access h).trans (congrArg _ (if_neg (Nat.not_lt.mpr ha)))

/-- A byte read returns `hostReadBuf` (rules R68, R189). -/
theorem step_bufRead {s : State} {a : Nat} {rest : List Input}
    (h : s.host.pending = .access (.bufRead a) :: rest) :
    step s = .next ((s.setPending rest).reply (.byte (hostReadBuf s a))) :=
  step_access h

/-- Settles O13: inside BUF the next memory is `Memory.write`, with its laws of read after write. -/
theorem bufWriteStoresOneByte : Obligations.BufWriteStoresOneByte := by
  intro s a b rest h
  refine ⟨fun ha => ⟨s.buf.write a b, step_bufWrite h ha, ?_, fun k hk => ?_⟩, step_bufWrite_outside h⟩
  · exact s.buf.read_write_same a b
  · exact s.buf.read_write_other b hk

/-- Settles O14: `hostReadBuf` compares the offset with BUF_SIZE. -/
theorem bufReadReturnsByte : Obligations.BufReadReturnsByte := by
  intro s a rest h
  rw [step_bufRead h, hostReadBuf]
  exact ⟨fun ha => by rw [if_pos ha], fun ha => by rw [if_neg (Nat.not_lt.mpr ha)]; rfl⟩

/-! ### Unmapped offsets -/

theorem Reg.offset_mapped (r : Reg) : r.offset ≠ 0x3C ∧ r.offset < 0x74 := by
  cases r <;> decide

/-- No register lies at 0x3C or from 0x74 on (rule R21). -/
theorem Reg.at?_eq_none {off : Nat} (h : off = 0x3C ∨ 0x74 ≤ off) : Reg.at? off = none := by
  rw [Option.eq_none_iff_forall_ne_some]
  intro r hr
  obtain ⟨hne, hlt⟩ := r.offset_mapped
  rw [Reg.offset_of_at? hr] at hne hlt
  omega

/-- Settles O10: the access is legal and the register map has no register there. -/
theorem unmappedOffsetsReadZero : Obligations.UnmappedOffsetsReadZero := by
  intro s off v rest h4 hoff
  have hl : regAccessLegal off .w32 = true := regAccessLegal_of_aligned h4 (by omega)
  have hnone : Reg.at? off = none := Reg.at?_eq_none (by omega)
  refine ⟨fun h => ?_, fun h => ?_⟩
  · rw [step_regRead h hl, readOffset, hnone]
  · rw [step_regWrite h hl, writeOffset, hnone]

/-! ### Register writes -/

theorem clampLen_toNat (s : State) (v : Word) :
    (clampLen s v).toNat = min v.toNat s.cfgBufSize.toNat := by
  rw [clampLen]
  split_ifs with h
  · exact (Nat.min_eq_left (BitVec.le_def.mp h)).symm
  · exact (Nat.min_eq_right (Nat.le_of_lt (Nat.not_le.mp h))).symm

/-- Settles O11: a write to CMD is a command write, a write to any other register is `writeReg`. -/
theorem registerWritesStore : Obligations.RegisterWritesStore := by
  intro s r v rest h
  cases r with
  | CMD => exact cmdWriteExecutesItsRow s rest v h
  | BUF_LEN => exact ⟨clampLen s v, clampLen_toNat s v, step_writeReg (by decide) h⟩
  | _ => exact step_writeReg (by decide) h

/-! ### Register reads -/

theorem eq_toWord_of_toNat {x : Word} {n : Nat} (h : x.toNat = n) : x = toWord n := by
  rw [← h, toWord_toNat]

/-- A register narrower than 32 bits reads as its number (rule R7). -/
theorem zeroExtend_eq_toWord {w : Nat} (v : BitVec w) (hw : w ≤ 32) :
    v.zeroExtend 32 = toWord v.toNat :=
  eq_toWord_of_toNat (BitVec.toNat_setWidth_of_le hw)

/-- A field has no bit in common with a mask that leaves its place clear. -/
theorem field_and_eq_zero {w pos : Nat} {m : Word} (v : BitVec w) (hm : m.extractLsb' pos w = 0) :
    field v pos &&& m = 0 := by
  refine BitVec.eq_of_getLsbD_eq fun i hi => ?_
  have hclear : i - pos < w → m.getLsbD (pos + (i - pos)) = false := fun h => by
    simpa [h] using congrArg (·.getLsbD (i - pos)) hm
  by_cases hpos : i < pos
  · simp [field, hpos]
  by_cases hw : i - pos < w
  · rw [Nat.add_sub_cancel' (Nat.not_lt.mp hpos)] at hclear
    simp [hclear hw]
  · simp [field, v.getLsbD_of_ge _ (Nat.not_lt.mp hw)]

theorem zeroExtend_and_eq_zero {w : Nat} {m : Word} (v : BitVec w) (hm : m.extractLsb' 0 w = 0) :
    v.zeroExtend 32 &&& m = 0 := by simpa [field] using field_and_eq_zero v hm

/-- The bits a register does not define read as 0 (rules R7, R184): its fields leave their places clear. -/
theorem readReg_and_undefinedBits (s : State) (r : Reg) : readReg s r &&& ~~~r.definedBits = 0 := by
  cases r with
  | CMD => exact BitVec.zero_and
  | GSTATUS => exact field_and_eq_zero _ (by decide)
  | TLV_TAG | TLV_LEN | REC_TYPE_LEN | REC_ID_LEN => exact zeroExtend_and_eq_zero _ (by decide)
  | TLV_STATUS | MSG_STATUS | REC_STATUS | REC_HDR =>
    simp (disch := decide) only [readReg, TlvStatus.word, MsgStatus.word, RecStatus.word, RecHdr.word,
      BitVec.and_or_distrib_right, field_and_eq_zero, BitVec.or_self]
  | _ => exact BitVec.and_zero

/-- Settles O9: a status register reads as the sum of its fields, a narrow one as its number; the step at a
register's offset is `step_readReg`. -/
theorem registerReadReturnsValue : Obligations.RegisterReadReturnsValue := by
  intro s r rest row
  have hoff : r.offset = row.1 := by cases r <;> rfl
  have hval : readReg s r = row.2 := by
    cases r with
    | GSTATUS => exact eq_toWord_of_toNat (gstatusWord_toNat _)
    | TLV_STATUS => exact eq_toWord_of_toNat (TlvStatus.word_toNat _)
    | MSG_STATUS => exact eq_toWord_of_toNat (MsgStatus.word_toNat _)
    | REC_STATUS => exact eq_toWord_of_toNat (RecStatus.word_toNat _)
    | REC_HDR => exact eq_toWord_of_toNat (RecHdr.word_toNat _)
    | TLV_TAG | TLV_LEN | REC_TYPE_LEN | REC_ID_LEN => exact zeroExtend_eq_toWord _ (by decide)
    | _ => rfl
  rw [← hoff, ← hval]
  exact ⟨rfl, rfl, readReg_and_undefinedBits s r, step_readReg⟩

end Machine
end Sys2Proof
end

section
/-! Which steps answer a next state (rules R177, R187, R200): every legal access does, a command included, so
only a register access that is not legal stops the machine. -/

namespace Sys2Proof.Machine

theorem writeCmd_completes (s : State) (w : Word) : ∃ t, writeCmd s w = .next t := by
  rcases writeCmd_cases s w with ⟨i, -, hexec⟩ | ⟨-, -, hillegal⟩
  · exact hexec ▸ exec_completes i s
  · exact ⟨_, hillegal⟩

theorem writeOffset_completes (s : State) (off : Nat) (v : Word) : ∃ t, writeOffset s off v = .next t := by
  rcases writeOffset_cases s off v with hcmd | hignored | ⟨_, hstore⟩
  · exact hcmd ▸ writeCmd_completes s v
  · exact ⟨_, hignored⟩
  · exact ⟨_, hstore⟩

/-- The converse of `perform_of_not_legal`: a legal access always has its effect (rule R200). -/
theorem perform_completes {a : Access} (h : a.legal = true) (s : State) : ∃ t, perform s a = .next t := by
  cases a with
  | regRead => exact ⟨_, if_pos h⟩
  | regWrite off _ v =>
    obtain ⟨t, ht⟩ := writeOffset_completes s off v
    exact ⟨t, (if_pos h).trans ht⟩
  | bufRead | bufWrite => exact ⟨_, rfl⟩

/-- Settles O8, by the next input: an idle step and a hardware reset answer a next state, and so does a host
access exactly when it is legal. -/
theorem onlyRefusedAccessesStop : Obligations.OnlyRefusedAccessesStop := by
  intro s
  match hp : s.host.pending with
  | [] => exact .inl ⟨s, by rw [step, stepPending, hp]⟩
  | .hardReset :: rest => exact .inl ⟨(s.setPending rest).hardReset, by rw [step, stepPending, hp]⟩
  | .access a :: rest =>
    cases hl : a.legal with
    | true => exact .inl (step_access hp ▸ perform_completes hl _)
    | false => exact .inr ⟨step_of_not_legal hp hl, a, rest, rfl, hl⟩

end Sys2Proof.Machine
end

section
/-! Reset and hazards (rules R60, R170, R220, R231, R232): the reset state's registers and invariant, what
LOCATE leaves alone, and which steps may move a walk's limit or window. -/

namespace Sys2Proof

/-- BUF_SIZE is at least 1 (rule R6). -/
theorem Config.one_le_bufSize : 1 ≤ Config.bufSize.toNat := by
  have hlt := Config.bufSizeLessOne.isLt
  have hsize : Config.bufSize.toNat = Config.bufSizeLessOne.val + 1 := Machine.toNat_toWord (by omega)
  omega

namespace Machine

/-! ### The reset state -/

/-- A reset of the registers finds nothing to change in the reset state. -/
theorem State.reset_resetRegs : State.reset.resetRegs = State.reset := rfl

/-- Settles O16: the reset state is its own `State.resetRegs`, and SOFT_RESET's next state is that of any
state. -/
theorem resetValuesOfRegisters : Obligations.ResetValuesOfRegisters := by
  refine ⟨fun r => ?_, rfl, fun s => ?_⟩
  · have hread := readReg_resetRegs State.reset r
    rwa [State.reset_resetRegs] at hread
  · exact ⟨s.resetRegs, exec_softReset s, readReg_resetRegs s, s.resetRegs_buf⟩

/-- Settles O48: the registers' parts are the invariants of their reset values; no BUF byte is written, and
BUF_LEN is 0. -/
theorem resetMeetsInvariant : Obligations.ResetMeetsInvariant where
  size_pos := Config.one_le_bufSize
  buf_wf := Memory.wf_reset
  buf_inside := nofun
  bufLen_le_size := Nat.zero_le _
  tlv := .reset
  msg := .reset
  ndef := .reset

/-! ### LOCATE's frame -/

/-- A search stays in the walk it was begun in: it keeps the limit (rule R28). -/
theorem locateLoop_lim {m : Memory} {fuel : Nat} {r r' : TlvRegs} (h : locateLoop m fuel r = some r') :
    r'.lim = r.lim :=
  locateLoop_keeps (P := (·.lim = r.lim)) (fun r₁ hr₁ => (tlvNextRegs_lim m r₁).trans hr₁) rfl h

/-- Settles O32: LOCATE writes CMD_ERR, the TLV walker's registers and the message registers; its search
keeps the limit its walk starts with. -/
theorem locateFrame : Obligations.LocateFrame := by
  intro s
  obtain ⟨r, hloop, hexec⟩ := exec_locate s
  exact ⟨_, hexec, fun _ => rfl, rfl, rfl, rfl, rfl, rfl, locateLoop_lim hloop⟩

/-! ### What a step can do to the walks' registers -/

/-- A command that starts no TLV walk and is not SOFT_RESET keeps the walk's limit (rules R28, R231). -/
theorem exec_tlv_lim {i : Instr} {s t : State} (h : exec i s = .next t) (hs : i ≠ .tlvStart)
    (hl : i ≠ .locate) (hr : i ≠ .softReset) : t.tlv.lim = s.tlv.lim := by
  cases i with
  | tlvStart => contradiction
  | locate => contradiction
  | softReset => contradiction
  | tlvNext => cases h; exact tlvNextRegs_lim ..
  | nop | recStart | recNext => cases h; rfl

/-- A command that is neither REC_START nor SOFT_RESET keeps the record window (rules R39, R49, R231). -/
theorem exec_ndef_window {i : Instr} {s t : State} (h : exec i s = .next t) (hs : i ≠ .recStart)
    (hr : i ≠ .softReset) : t.ndef.base = s.ndef.base ∧ t.ndef.endOff = s.ndef.endOff := by
  cases i with
  | recStart => contradiction
  | softReset => contradiction
  | recNext => cases h; exact ⟨recNextRegs_base .., recNextRegs_endOff ..⟩
  | locate =>
    obtain ⟨r, -, hexec⟩ := exec_locate s
    cases hexec.symm.trans h; exact ⟨rfl, rfl⟩
  | nop | tlvStart | tlvNext => cases h; exact ⟨rfl, rfl⟩

@[simp] theorem hostWriteBuf_tlv (s : State) (a : Nat) (b : Byte) :
    (hostWriteBuf s a b).tlv = s.tlv := by unfold hostWriteBuf; split <;> rfl

@[simp] theorem hostWriteBuf_ndef (s : State) (a : Nat) (b : Byte) :
    (hostWriteBuf s a b).ndef = s.ndef := by unfold hostWriteBuf; split <;> rfl

/-- No register write changes the TLV walker's registers: they are read-only (rule R185). -/
@[simp] theorem writeReg_tlv (s : State) (v : Word) (r : Reg) : (writeReg s v r).tlv = s.tlv := by
  rcases writeReg_cases s v r with e | e | e | e <;> rw [e] <;> rfl

/-- No register write changes the record parser's registers: they are read-only (rule R185). -/
@[simp] theorem writeReg_ndef (s : State) (v : Word) (r : Reg) : (writeReg s v r).ndef = s.ndef := by
  rcases writeReg_cases s v r with e | e | e | e <;> rw [e] <;> rfl

/-- Everything a step can do to the walks' registers: nothing, unless it is a hardware reset or a
command. -/
theorem step_walk_cases {s t : State} (h : step s = .next t) :
    (t.tlv = s.tlv ∧ t.ndef = s.ndef) ∨
    (∃ rest, s.host.pending = .hardReset :: rest) ∨
    ∃ i rest, s.WritesCmd (encode i) rest ∧ exec i (s.setPending rest) = .next t := by
  rcases step_cases h with ⟨-, rfl⟩ | ⟨rest, hp, -⟩ | ⟨w, rest, hp, hcmd⟩ | ⟨a, rest, -, -, hacc⟩
  · exact .inl ⟨rfl, rfl⟩
  · exact .inr (.inl ⟨rest, hp⟩)
  · rcases hcmd with ⟨i, hd, hexec⟩ | ⟨e, -, rfl⟩
    · obtain rfl := eq_encode_of_decode hd
      exact .inr (.inr ⟨i, rest, hp, hexec⟩)
    · exact .inl ⟨rfl, rfl⟩
  · refine .inl ?_
    rcases hacc with ⟨v, rfl⟩ | ⟨k, b, -, rfl⟩ | rfl | ⟨v, r, rfl⟩ <;> simp

/-- Settles O46: of the steps that may touch the walks' registers, every command but the ones that start the
walk and SOFT_RESET keeps its limits; the other such step is a hardware reset (assumption 12). -/
theorem limitsCapturedAtStart : Obligations.LimitsCapturedAtStart := by
  intro s t h
  rcases step_walk_cases h with ⟨htlv, hndef⟩ | ⟨rest, hp⟩ | ⟨i, rest, hw, hexec⟩
  · rw [htlv, hndef]
    exact ⟨fun hne => absurd rfl hne, fun hne => hne.elim (absurd rfl) (absurd rfl)⟩
  · exact ⟨fun _ => ⟨rest, .inl hp⟩, fun _ => ⟨rest, .inl hp⟩⟩
  · refine ⟨fun hne => ⟨rest, .inr ⟨i, hw, ?_⟩⟩, fun hne => ⟨rest, .inr ⟨i, hw, ?_⟩⟩⟩
    · by_contra! hother
      obtain ⟨hstart, hloc, hreset⟩ := hother
      have hlim := exec_tlv_lim hexec hstart hloc hreset
      exact hne hlim
    · by_contra! hother
      obtain ⟨hstart, hreset⟩ := hother
      obtain ⟨hbase, hend⟩ := exec_ndef_window hexec hstart hreset
      exact hne.elim (absurd hbase) (absurd hend)

end Machine
end Sys2Proof
end

section
/-! The steps that perform no host access (rules R14, R70, R220 to R222): the idle step and the hardware reset,
as the model reads them (assumptions 5 and 12). -/

namespace Sys2Proof.Machine

/-- With nothing pending the block is idle (assumption 5). -/
theorem step_idle {s : State} (h : s.host.pending = []) : step s = .next s := by
  rw [step, stepPending, h]

/-- A pending hardware reset is taken and performed (assumption 12). -/
theorem step_hardReset {s : State} {rest : List Input} (h : s.host.pending = .hardReset :: rest) :
    step s = .next (s.setPending rest).hardReset := by
  rw [step, stepPending, h]

/-- No register holds a byte of BUF. -/
@[simp] theorem readReg_setBuf (s : State) (m : Memory) (r : Reg) :
    readReg (s.setBuf m) r = readReg s r := by
  cases r <;> rfl

/-- A hardware reset gives the registers the values SOFT_RESET gives them (rules R181, R220). -/
theorem readReg_hardReset (s : State) (r : Reg) :
    readReg s.hardReset r = r.resetValue s.cfgBufSize := by
  rw [State.hardReset, readReg_setBuf, readReg_resetRegs]

/-- After a hardware reset a host write leaves every other byte the new draw's (rule R222). -/
theorem Memory.read_redraw_write_other (m : Memory) {a k : Nat} (b : Byte) (h : k ≠ a) :
    (m.redraw.write a b).read k = Config.bufPowerOn (m.draw + 1) k := by
  rw [Memory.read_write_other _ b h, Memory.read_redraw]

/-- Settles O7: `step_idle` is the statement. -/
theorem idleStepChangesNothing : Obligations.IdleStepChangesNothing := fun _ => step_idle

/-- Settles O17: the next state is `State.hardReset`'s, whose BUF is `Memory.redraw`'s. -/
theorem hardResetDrawsBuf : Obligations.HardResetDrawsBuf := fun s rest hp =>
  ⟨(s.setPending rest).hardReset, step_hardReset hp, readReg_hardReset (s.setPending rest), rfl, rfl,
    s.buf.read_redraw, fun _ _ b => s.buf.read_redraw_write_other b⟩

end Sys2Proof.Machine
end
